-- ==== Sys2Proof/Word.lean ====
section
/-! DEFINITION. Sys2Proof/Word.lean: the widths the block works with (00_scope.md R7, R9). -/

namespace Sys2Proof

/-- A byte lane of a register (20_memory.md R53). -/
abbrev Byte := BitVec 8

/-- A 32-bit register, command word or operand word (00_scope.md R7, R16). -/
abbrev Word := BitVec 32

/-- A binary128 pattern or a UInt128 (00_scope.md R7, R14). -/
abbrev Quad := BitVec 128

/-- A whole operand or result register OPA, OPB, RES, REM, LA, LB (10_state.md R24, R36). -/
abbrev Wide := BitVec 256

/-- A byte offset in the 4 KiB register window (20_memory.md R50). -/
abbrev Offset := BitVec 12

end Sys2Proof
end

