-- ==== Sys2Proof/Syntax.lean ====
section
/-! DEFINITION. Sys2Proof/Syntax.lean: the 51 commands of opcode_table.json, the host's statements (30_encoding.md R83,
44_host_access.md R193), and the moves of the agents and of the environment (10_state.md R20). -/

namespace Sys2Proof

/-- The commands, one constructor per row of opcode_table.json (30_encoding.md R72). A command carries no immediate and
no register field (R79). -/
inductive Instr where
  | faddQ | fsubQ | fmulQ | fdivQ | fclassQ
  | fcvtQW | fcvtQWU | fcvtQL | fcvtQLU | fcvtQU128 | fcvtQU256 | fcvtQS | fcvtQD
  | fcvtWQ | fcvtWUQ | fcvtLQ | fcvtLUQ | fcvtU128Q | fcvtU256Q | fcvtSQ | fcvtDQ
  | addU128 | subU128 | mulU128 | divU128 | modU128 | divremU128 | andU128 | orU128 | xorU128 | notU128
  | shlU128 | shrU128 | cmpuU128 | highbitU128 | lowbitU128
  | addU256 | subU256 | mulU256 | divU256 | modU256 | divremU256 | andU256 | orU256 | xorU256 | notU256
  | shlU256 | shrU256 | cmpuU256 | highbitU256 | lowbitU256
  deriving DecidableEq, Repr

/-- The name of a host variable (R193 gives names; the model numbers them). -/
abbrev HostVar := Nat

/-- The name of a host program label (R83; numbered). -/
abbrev HostLabel := Nat

/-- Host arithmetic on 32-bit values (R193; the operators of R84 and of 95_test_vectors.md section 3 and the usual others,
log entry 11). A shift amount is a constant below 32. -/
inductive HostExpr where
  | lit (w : Word)
  | var (x : HostVar)
  | not (a : HostExpr)
  | and (a b : HostExpr)
  | or (a b : HostExpr)
  | xor (a b : HostExpr)
  | add (a b : HostExpr)
  | sub (a b : HostExpr)
  | shl (a : HostExpr) (n : Fin 32)
  | shr (a : HostExpr) (n : Fin 32)
  deriving DecidableEq, Repr

/-- One host statement. `store` and `load` are `MemWrite(BASE + OFF, n, v)` and `MemRead(BASE + OFF, n)` (00_scope.md R12,
44_host_access.md R190); R83's `wr` and `rd` are those with n = 4. -/
inductive HostStmt where
  | store (off : Offset) (n : Nat) (v : HostExpr)
  | load (off : Offset) (n : Nat) (t : HostVar)
  | assign (t : HostVar) (e : HostExpr)
  | bz (t : HostVar) (target : HostLabel)
  | bnz (t : HostVar) (target : HostLabel)
  deriving DecidableEq, Repr

/-- `wr OFF, v` (R83). -/
abbrev HostStmt.wr (off : Offset) (v : HostExpr) : HostStmt := .store off 4 v

/-- `rd OFF -> t` (R83). -/
abbrev HostStmt.rd (off : Offset) (t : HostVar) : HostStmt := .load off 4 t

/-- A statement with the label it carries, if any (R83 `label:`, R193). How many labels one statement may carry neither rule
says; that it is at most one is the model's choice (DESIGN CHOICE, log entry 11). -/
structure HostLine where
  label : Option HostLabel
  stmt : HostStmt
  deriving DecidableEq, Repr

/-- A host program "is a list of statements with labels" (R193). -/
abbrev HostProgram := List HostLine

/-- An access by a bus master other than the modelled host (60_exceptions.md R244), n bytes at a byte address of the bus. -/
inductive BusAccess where
  | write (addr : Word) (n : Nat) (v : Word)
  | read (addr : Word) (n : Nat)
  deriving DecidableEq, Repr

/-- One move: the agents of 10_state.md R20 and the environment. -/
inductive Input where
  /-- One clock cycle passes: the execution unit's move, or the reset of R250 while the reset input is asserted. -/
  | tick
  /-- The host executes its next statement. -/
  | host
  /-- Another bus master's access arrives (R244). -/
  | bus (a : BusAccess)
  /-- The reset input takes this level (R250). -/
  | resetLine (level : Bool)
  deriving DecidableEq, Repr

end Sys2Proof
end

