-- ==== Sys2Proof/WellFormed.lean ====
section
/-! DEFINITION. Sys2Proof/WellFormed.lean: which commands, command words, host statements and host programs are well formed. -/

namespace Sys2Proof

/-- Every command is well formed: it "carries no immediate and no register field" (30_encoding.md R79), so there is
nothing to check. -/
def Instr.wf (_ : Instr) : Bool := true

/-- The OP values of the legal commands by R71's groups: FP arithmetic `0001 ffff` with ffff up to 4, conversion
`0010 dttt`, integer `010w ffff` with ffff up to 0xE. -/
def legalOp (op : BitVec 8) : Bool :=
  (op.extractLsb' 4 4 == 1#4 && decide (op.extractLsb' 0 4 ≤ 4#4))
    || op.extractLsb' 4 4 == 2#4
    || (op.extractLsb' 5 3 == 2#3 && decide (op.extractLsb' 0 4 ≤ 14#4))

/-- A legal command word: `zext_32(OP)` for a legal OP (R72, R75). -/
def legalWord (w : Word) : Bool :=
  w.extractLsb' 8 24 == 0#24 && legalOp (w.extractLsb' 0 8)

/-- "The only defined access is a 32-bit access at an offset that is a multiple of 4" (20_memory.md R53). -/
def definedAccess (off : Offset) (n : Nat) : Bool :=
  n == 4 && off.extractLsb' 0 2 == 0#2

/-- Duty 4 of 44_host_access.md R196 for one statement: its access, if it makes one, is a defined one. -/
def HostStmt.aligned : HostStmt → Bool
  | .store off n _ => definedAccess off n
  | .load off n _ => definedAccess off n
  | .assign _ _ => true
  | .bz _ _ => true
  | .bnz _ _ => true

/-- Whether a host expression reads a host variable (R193). -/
def HostExpr.reads (x : HostVar) : HostExpr → Bool
  | .lit _ => false
  | .var y => x == y
  | .not a => a.reads x
  | .and a b => a.reads x || b.reads x
  | .or a b => a.reads x || b.reads x
  | .xor a b => a.reads x || b.reads x
  | .add a b => a.reads x || b.reads x
  | .sub a b => a.reads x || b.reads x
  | .shl a _ => a.reads x
  | .shr a _ => a.reads x

/-- The label a statement may branch to (R83). -/
def HostStmt.target? : HostStmt → Option HostLabel
  | .store _ _ _ => none
  | .load _ _ _ => none
  | .assign _ _ => none
  | .bz _ l => some l
  | .bnz _ l => some l

/-- The labels a program defines, in order. -/
def HostProgram.labels (p : HostProgram) : List HostLabel := p.filterMap HostLine.label

/-- Every access is defined. -/
def HostProgram.aligned (p : HostProgram) : Bool := p.all fun l => l.stmt.aligned

/-- No label stands on two statements: "the statement labelled L" (R193) is one statement. -/
def HostProgram.labelsDistinct (p : HostProgram) : Bool := decide (HostProgram.labels p).Nodup

/-- Every branch names a label some statement carries. -/
def HostProgram.targetsDefined (p : HostProgram) : Bool :=
  p.all fun l => match l.stmt.target? with
    | none => true
    | some t => (HostProgram.labels p).contains t

/-- A well-formed host program. -/
def HostProgram.wf (p : HostProgram) : Bool :=
  HostProgram.aligned p && HostProgram.labelsDistinct p && HostProgram.targetsDefined p

end Sys2Proof
end

