-- ==== Sys2Proof/Decode.lean ====
section
/-! DEFINITION. Sys2Proof/Decode.lean: from command words to commands and back (30_encoding.md R70 to R76, R81, R82). -/

namespace Sys2Proof

/-- Why a command word is Illegal (R82). -/
inductive Illegal where
  /-- Bits 31:8 are not all zero (R75). -/
  | upperBits
  /-- The OP value is not in R72's table (R74). -/
  | reservedOp
  /-- Fewer than four bytes were given: no command word. -/
  | shortWord
  deriving DecidableEq, Repr

/-- 30_encoding.md R72, OP 0x10 to 0x14. -/
def opsFpArith : List (BitVec 8 × Instr) :=
  [ (0x10#8, .faddQ), (0x11#8, .fsubQ), (0x12#8, .fmulQ), (0x13#8, .fdivQ),
    (0x14#8, .fclassQ) ]

/-- 30_encoding.md R72, OP 0x20 to 0x2F. -/
def opsConvert : List (BitVec 8 × Instr) :=
  [ (0x20#8, .fcvtQW), (0x21#8, .fcvtQWU), (0x22#8, .fcvtQL), (0x23#8, .fcvtQLU),
    (0x24#8, .fcvtQU128), (0x25#8, .fcvtQU256), (0x26#8, .fcvtQS), (0x27#8, .fcvtQD),
    (0x28#8, .fcvtWQ), (0x29#8, .fcvtWUQ), (0x2A#8, .fcvtLQ), (0x2B#8, .fcvtLUQ),
    (0x2C#8, .fcvtU128Q), (0x2D#8, .fcvtU256Q), (0x2E#8, .fcvtSQ), (0x2F#8, .fcvtDQ) ]

/-- 30_encoding.md R72, OP 0x40 to 0x4E. -/
def opsU128 : List (BitVec 8 × Instr) :=
  [ (0x40#8, .addU128), (0x41#8, .subU128), (0x42#8, .mulU128), (0x43#8, .divU128),
    (0x44#8, .modU128), (0x45#8, .divremU128), (0x46#8, .andU128), (0x47#8, .orU128),
    (0x48#8, .xorU128), (0x49#8, .notU128), (0x4A#8, .shlU128), (0x4B#8, .shrU128),
    (0x4C#8, .cmpuU128), (0x4D#8, .highbitU128), (0x4E#8, .lowbitU128) ]

/-- 30_encoding.md R72, OP 0x50 to 0x5E. -/
def opsU256 : List (BitVec 8 × Instr) :=
  [ (0x50#8, .addU256), (0x51#8, .subU256), (0x52#8, .mulU256), (0x53#8, .divU256),
    (0x54#8, .modU256), (0x55#8, .divremU256), (0x56#8, .andU256), (0x57#8, .orU256),
    (0x58#8, .xorU256), (0x59#8, .notU256), (0x5A#8, .shlU256), (0x5B#8, .shrU256),
    (0x5C#8, .cmpuU256), (0x5D#8, .highbitU256), (0x5E#8, .lowbitU256) ]

/-- R72's table, whole: 51 rows. -/
def opTable : List (BitVec 8 × Instr) := opsFpArith ++ opsConvert ++ opsU128 ++ opsU256

/-- The row of an OP value, if the table has one. -/
def decodeOp (op : BitVec 8) : Option Instr := (opTable.find? fun row => row.1 == op).map Prod.snd

/-- `decode(w)` of R82, total on every 32-bit word. -/
def decode (w : Word) : Except Illegal Instr :=
  if w.extractLsb' 8 24 == 0#24 then
    match decodeOp (w.extractLsb' 0 8) with
    | some i => .ok i
    | none => .error .reservedOp
  else .error .upperBits

/-- The word of four bytes, the byte at the lowest address in bits 7:0 (20_memory.md R53). -/
def wordOfBytes (b0 b1 b2 b3 : Byte) : Word := b3 ++ b2 ++ b1 ++ b0

/-- Byte k of a word (R53: byte lane k carries bits 8k+7:8k). -/
def byteLane (w : Word) (k : Nat) : Byte := w.extractLsb' (8 * k) 8

/-- The four bytes of a word, lowest address first (R53). -/
def bytesOfWord (w : Word) : List Byte := [byteLane w 0, byteLane w 1, byteLane w 2, byteLane w 3]

/-- Decoding from bytes: the command, and the bytes after its one word (R81). -/
def decodeBytes : List Byte → Except Illegal (Instr × List Byte)
  | b0 :: b1 :: b2 :: b3 :: rest => (decode (wordOfBytes b0 b1 b2 b3)).map fun i => (i, rest)
  | _ => .error .shortWord

/-- The command word of a command, `zext_32(OP)` (R72). -/
def encode : Instr → Word
  | .faddQ => 0x00000010#32
  | .fsubQ => 0x00000011#32
  | .fmulQ => 0x00000012#32
  | .fdivQ => 0x00000013#32
  | .fclassQ => 0x00000014#32
  | .fcvtQW => 0x00000020#32
  | .fcvtQWU => 0x00000021#32
  | .fcvtQL => 0x00000022#32
  | .fcvtQLU => 0x00000023#32
  | .fcvtQU128 => 0x00000024#32
  | .fcvtQU256 => 0x00000025#32
  | .fcvtQS => 0x00000026#32
  | .fcvtQD => 0x00000027#32
  | .fcvtWQ => 0x00000028#32
  | .fcvtWUQ => 0x00000029#32
  | .fcvtLQ => 0x0000002A#32
  | .fcvtLUQ => 0x0000002B#32
  | .fcvtU128Q => 0x0000002C#32
  | .fcvtU256Q => 0x0000002D#32
  | .fcvtSQ => 0x0000002E#32
  | .fcvtDQ => 0x0000002F#32
  | .addU128 => 0x00000040#32
  | .subU128 => 0x00000041#32
  | .mulU128 => 0x00000042#32
  | .divU128 => 0x00000043#32
  | .modU128 => 0x00000044#32
  | .divremU128 => 0x00000045#32
  | .andU128 => 0x00000046#32
  | .orU128 => 0x00000047#32
  | .xorU128 => 0x00000048#32
  | .notU128 => 0x00000049#32
  | .shlU128 => 0x0000004A#32
  | .shrU128 => 0x0000004B#32
  | .cmpuU128 => 0x0000004C#32
  | .highbitU128 => 0x0000004D#32
  | .lowbitU128 => 0x0000004E#32
  | .addU256 => 0x00000050#32
  | .subU256 => 0x00000051#32
  | .mulU256 => 0x00000052#32
  | .divU256 => 0x00000053#32
  | .modU256 => 0x00000054#32
  | .divremU256 => 0x00000055#32
  | .andU256 => 0x00000056#32
  | .orU256 => 0x00000057#32
  | .xorU256 => 0x00000058#32
  | .notU256 => 0x00000059#32
  | .shlU256 => 0x0000005A#32
  | .shrU256 => 0x0000005B#32
  | .cmpuU256 => 0x0000005C#32
  | .highbitU256 => 0x0000005D#32
  | .lowbitU256 => 0x0000005E#32

/-- The command word the host of this package writes as nbits and w: the low nbits bits of w, the bits above them zero.
Every command is one 32-bit word (R81). -/
def tableWord (nbits w : Nat) : Word := BitVec.ofNat 32 (w % 2 ^ nbits)

/-- What the decoder reads from that word, laid out in bytes as the hardware stores it (log entry 13). -/
def decodeTableWord (nbits w : Nat) : Option Instr :=
  match decodeBytes (bytesOfWord (tableWord nbits w)) with
  | .ok (i, _) => some i
  | .error _ => none

end Sys2Proof
end

