-- ==== Sys2Proof/Config.lean ====
section
/-! DEFINITION. Sys2Proof/Config.lean: the named parameters of 00_scope.md R8, and the free values behind its draws. -/

namespace Sys2Proof

/-- `ZERO_SUM_SIGN` (00_scope.md R8, 40_fp_arith.md R106). -/
inductive ZeroSumSign where
  | plus | ieee
  deriving DecidableEq, Repr

/-- `SRC_SUBNORMAL` (00_scope.md R8, 41_fp_conversion.md R140). -/
inductive SrcSubnormal where
  | flush | exact
  deriving DecidableEq, Repr

/-- `INT_TO_Q_ROUND` (00_scope.md R8, 41_fp_conversion.md R131). -/
inductive IntToQRound where
  | trunc | rne
  deriving DecidableEq, Repr

/-- `FP_TO_INT_OOR` (00_scope.md R8, 41_fp_conversion.md R141). -/
inductive FpToIntOor where
  | wrap | any
  deriving DecidableEq, Repr

/-- `SHIFT_OVERSIZE` (00_scope.md R8, 42_integer.md R180). -/
inductive ShiftOversize where
  | zero | mask
  deriving DecidableEq, Repr

/-- `NAN_OUT` (00_scope.md R8, 40_fp_arith.md R99). -/
inductive NanOut where
  | canonical | anyNan
  deriving DecidableEq, Repr

/-- The parameters of 00_scope.md R8. They are arguments of the model: State carries them, no step writes them, and a
claim over every state holds for every value of them. -/
structure Params where
  /-- Bits 31:12 of `BASE`, so that `BASE` is a multiple of 0x1000 by its form. -/
  basePage : BitVec 20
  /-- `LAT` as a table: entry n is the cycles `LAT` takes BEYOND the first for OP = n, and an OP past the end takes one
  cycle. So every function from the 256 opcodes to naturals >= 1 is a value of this field, and no other is. -/
  extraCycles : List Nat
  zeroSumSign : ZeroSumSign
  srcSubnormal : SrcSubnormal
  intToQRound : IntToQRound
  fpToIntOor : FpToIntOor
  shiftOversize : ShiftOversize
  nanOut : NanOut
  deriving DecidableEq, Repr

/-- The defaults of R8, "the value this spec's hardware takes". `BASE` and `LAT` are OPEN there: page 0 and one cycle are
the model's (DESIGN CHOICE, log entry 3). -/
def Params.default : Params where
  basePage := 0
  extraCycles := []
  zeroSumSign := .plus
  srcSubnormal := .flush
  intToQRound := .trunc
  fpToIntOor := .wrap
  shiftOversize := .zero
  nanOut := .canonical

/-- The free values behind the draws of 40_fp_arith.md R99 (`ANY_NAN`) and 41_fp_conversion.md R141 (`ANY`): the n-th
draw. It has no body, so no proof can rest on a value of it (log entry 5). -/
opaque Config.freeBits : Nat → Wide

end Sys2Proof
end

