-- ==== Sys2Proof/Machine/State.lean ====
section
/-! DEFINITION. Sys2Proof/Machine/State.lean: the block's registers and hidden state (10_state.md R21, R27, R36), the host's
side (44_host_access.md R193), the moves to come, the parameters; the faults and refusals; the state after reset. -/

namespace Sys2Proof.Machine

/-- The error codes (60_exceptions.md R230). "ERR values 3 to 15 are never produced" (10_state.md R27), so they have no
constructor (log entry 20). -/
inductive ErrCode where
  | none | divideByZero | illegalCommand
  deriving DecidableEq, Repr

/-- The fields of STATUS that have storage (10_state.md R27); bit 3 and bits 31:16 are hardwired 0. -/
structure Status where
  busy : Bool
  done : Bool
  drop : Bool
  err : ErrCode
  op : BitVec 8
  deriving DecidableEq, Repr

/-- The machine: the block, the host and the moves to come. -/
structure State where
  /-- OPA and OPB (R24, R25). -/
  opa : Wide
  opb : Wide
  /-- RES and REM (R33, R34). -/
  res : Wide
  rem : Wide
  /-- STATUS (R27). -/
  status : Status
  /-- Hidden state (R36): the operands and the command word copied at acceptance, and the cycles left. -/
  la : Wide
  lb : Wide
  lcmd : Word
  cnt : Nat
  /-- The level of the reset input (70_reset_and_hazards.md R250). -/
  resetLine : Bool
  /-- Whether the block has been reset since power-up (R251). -/
  wasReset : Bool
  /-- The host's program, its statement index and its variables (44_host_access.md R193); `vars` lists the written
  variables by strictly rising number. -/
  prog : HostProgram
  hpc : Nat
  vars : List (HostVar × Word)
  /-- The moves to come, the next one first (10_state.md R20; the model's own field, log entries 1 and 2). -/
  inputs : List Input
  /-- The parameters of 00_scope.md R8; no step writes them (log entries 3 and 4). -/
  params : Params
  /-- How many draws have been taken (the model's own field, log entry 5). -/
  draws : Nat
  deriving DecidableEq, Repr

/-- What stops a run with a fault. Both are faults of the HOST PROGRAM; the block itself never faults
(60_exceptions.md R232). -/
inductive Fault where
  /-- Raised by a host statement that reads a variable no statement has written: "a fault of the host program, not a
  value" (44_host_access.md R193). Safe. -/
  | unwrittenHostVariable
  /-- Raised by a taken `bz` or `bnz` whose label no statement carries; R193 gives such a program no meaning
  (log entry 11). Safe. -/
  | undefinedHostLabel
  deriving DecidableEq, Repr

/-- What the model refuses. -/
inductive Refusal where
  /-- An instruction that has no meaning yet (raised by exec's arms only). Safe. -/
  | notModelled (mnemonic : String)
  /-- Raised by an access that is not 32 bits wide at a multiple of 4: "A model refuses such an access"
  (20_memory.md R53). Safe. -/
  | undefinedAccess
  /-- Raised by an access before the first reset: "A model refuses a run that makes a host access before the first
  reset" (70_reset_and_hazards.md R251). Safe. -/
  | accessBeforeReset
  deriving DecidableEq, Repr

/-- STATUS after reset: 0x00000000 (10_state.md R27, 70_reset_and_hazards.md R252). -/
def Status.reset : Status where
  busy := false
  done := false
  drop := false
  err := .none
  op := 0

/-- The machine right after reset (R252), the reset input released, no host program loaded and no host variable written
(R254; log entries 2, 3, 5, 8, 9, 17). -/
def State.reset : State where
  opa := 0
  opb := 0
  res := 0
  rem := 0
  status := Status.reset
  la := 0
  lb := 0
  lcmd := 0
  cnt := 0
  resetLine := false
  wasReset := true
  prog := []
  hpc := 0
  vars := []
  inputs := []
  params := Params.default
  draws := 0

end Sys2Proof.Machine
end

