-- ==== Sys2Proof/Machine/Flags.lean ====
section
/-! DEFINITION. Sys2Proof/Machine/Flags.lean: the STATUS word and what each step does to its fields (10_state.md R27, R37 to
R39). The block has no condition codes and no floating-point flags (R44). -/

namespace Sys2Proof.Machine

/-- The ERR field of an error code (60_exceptions.md R230). -/
def ErrCode.code : ErrCode → BitVec 4
  | .none => 0
  | .divideByZero => 1
  | .illegalCommand => 2

/-- STATUS as the host reads it (R27): OP in 15:8, ERR in 7:4, DROP, DONE, BUSY in 2, 1, 0, the rest hardwired 0. -/
def Status.word (t : Status) : Word :=
  0#16 ++ t.op ++ t.err.code ++ 0#1 ++ BitVec.ofBool t.drop ++ BitVec.ofBool t.done ++ BitVec.ofBool t.busy

/-- What acceptance of a command word with this OP writes (R37). -/
def Status.accepted (op : BitVec 8) : Status where
  busy := true
  done := false
  drop := false
  err := .none
  op := op

/-- What a dropped CMD write does (R38): DROP is set and nothing else changes. -/
def Status.dropped (t : Status) : Status := { t with drop := true }

/-- What completion with an error code does (R39): DROP and OP are kept. -/
def Status.completed (t : Status) (e : ErrCode) : Status := { t with busy := false, done := true, err := e }

end Sys2Proof.Machine
end

