-- ==== Sys2Proof/Machine/Operands.lean ====
section
/-! DEFINITION. Sys2Proof/Machine/Operands.lean: operand selection (10_state.md R43) and result placement (R41). -/

namespace Sys2Proof.Machine

/-- The 32-bit source operand `A[31:0]` (R43). -/
def State.a32 (s : State) : BitVec 32 := s.la.setWidth 32

/-- The 64-bit source operand `A[63:0]` (R43). -/
def State.a64 (s : State) : BitVec 64 := s.la.setWidth 64

/-- `A[127:0]`: a binary128 operand or the UInt128 operand A (R43, 40_fp_arith.md R90, 42_integer.md R170). -/
def State.a128 (s : State) : Quad := s.la.setWidth 128

/-- `B[127:0]` (R43). -/
def State.b128 (s : State) : Quad := s.lb.setWidth 128

/-- The UInt256 operand A, all of LA (R43). -/
def State.a256 (s : State) : Wide := s.la

/-- The UInt256 operand B, all of LB (R43). -/
def State.b256 (s : State) : Wide := s.lb

/-- An n-bit result in its 256-bit register: "zero-extended, never sign-extended" (R41). -/
def place {n : Nat} (v : BitVec n) : Wide := v.setWidth 256

end Sys2Proof.Machine
end

