-- ==== Sys2Proof/Machine/Ops.lean ====
section
/-! DEFINITION. Sys2Proof/Machine/Ops.lean: acceptance, drop, completion, errors and reset (10_state.md R37 to R45,
00_scope.md R13, 70_reset_and_hazards.md R250); the register window (10_state.md R21, 20_memory.md R50 to R58); the host's
variables and arithmetic (44_host_access.md R193). -/

namespace Sys2Proof.Machine

/-! ## Commands -/

/-- `LAT(op)`, at least 1 (00_scope.md R8, 70_reset_and_hazards.md R260). -/
def latency (p : Params) (op : BitVec 8) : Nat := p.extraCycles.getD op.toNat 0 + 1

/-- Acceptance of a command word (10_state.md R37). RES and REM are not changed. -/
def acceptCommand (w : Word) (s : State) : State :=
  { s with
    la := s.opa
    lb := s.opb
    lcmd := w
    cnt := latency s.params (w.extractLsb' 0 8)
    status := Status.accepted (w.extractLsb' 0 8) }

/-- A CMD write while busy (R38). -/
def dropCommand (s : State) : State := { s with status := s.status.dropped }

/-- A CMD write (R26): acceptance when BUSY = 0, drop when BUSY = 1. -/
def writeCmd (w : Word) (s : State) : State := if s.status.busy then dropCommand s else acceptCommand w s

/-- The atomic writes of completion (R39) with the triple (r, q, e) of R40: RES, REM, ERR, BUSY and DONE. CNT reaches 0
(log entry 7), and the draw this command may have taken is spent (log entry 5). -/
def complete (r q : Wide) (e : ErrCode) (s : State) : State :=
  { s with
    res := r
    rem := q
    status := s.status.completed e
    cnt := 0
    draws := s.draws + 1 }

/-- Completion with a primary result alone: REM is 0 and ERR is 0 (R41, R42). -/
def completeWith {n : Nat} (r : BitVec n) (s : State) : State := complete (place r) 0 .none s

/-- `raise E` (00_scope.md R13, 60_exceptions.md R232): the block's one way of taking an error. RES and REM become 0 and ERR
the code, in the same atomic completion; nothing is saved, no mode changes and no control is transferred, so there is
nothing to return from (60_exceptions.md R235). -/
def raiseError (e : ErrCode) (s : State) : State := complete 0 0 e s

/-- The reset event on the block (70_reset_and_hazards.md R250). The host's side and the parameters are not the block's. -/
def resetBlock (s : State) : State :=
  { s with
    opa := 0
    opb := 0
    res := 0
    rem := 0
    la := 0
    lb := 0
    lcmd := 0
    cnt := 0
    status := Status.reset
    wasReset := true }

/-! ## The register window -/

/-- Word i of a 256-bit register (10_state.md R24). -/
def wordAt (v : Wide) (i : BitVec 3) : Word := v.extractLsb' (32 * i.toNat) 32

/-- A write of word i, which "changes no other bit" (R24). -/
def setWordAt (v : Wide) (i : BitVec 3) (w : Word) : Wide :=
  (v &&& ~~~((BitVec.allOnes 32).setWidth 256 <<< (32 * i.toNat))) ||| (w.setWidth 256 <<< (32 * i.toNat))

/-- The registers of the window (10_state.md R21). -/
inductive Reg where
  | opa (i : BitVec 3) | opb (i : BitVec 3) | cmd | status | res (i : BitVec 3) | rem (i : BitVec 3) | reserved
  deriving DecidableEq, Repr

/-- The register at an offset that is a multiple of 4 (R21): the offset in units of 32 bytes picks the group, bits 4:2 the
word in it. -/
def regAt (off : Offset) : Reg :=
  let i := off.extractLsb' 2 3
  match (off.extractLsb' 5 7).toNat with
  | 0 => .opa i
  | 1 => .opb i
  | 2 => if i == 0 then .cmd else if i == 1 then .status else .reserved
  | 4 => .res i
  | 5 => .rem i
  | _ => .reserved

/-- What a 32-bit read returns (R21, 20_memory.md R51): CMD and the reserved offsets read 0. -/
def readReg (s : State) : Reg → Word
  | .opa i => wordAt s.opa i
  | .opb i => wordAt s.opb i
  | .cmd => 0
  | .status => s.status.word
  | .res i => wordAt s.res i
  | .rem i => wordAt s.rem i
  | .reserved => 0

/-- What a 32-bit write does (R21, R51): STATUS, RES, REM and the reserved offsets ignore it. -/
def writeReg (s : State) (w : Word) : Reg → State
  | .opa i => { s with opa := setWordAt s.opa i w }
  | .opb i => { s with opb := setWordAt s.opb i w }
  | .cmd => writeCmd w s
  | .status => s
  | .res _ => s
  | .rem _ => s
  | .reserved => s

/-- The byte of the window at an offset: lane off[1:0] of the register there (20_memory.md R53, R54). It is the model's view
of one byte for claims; the block has no byte access. -/
def windowByte (s : State) (off : Offset) : Byte := byteLane (readReg s (regAt off)) (off.extractLsb' 0 2).toNat

/-- Why the model refuses an access, if it does: before the first reset (70_reset_and_hazards.md R251), or not 32 bits wide
at a multiple of 4 (20_memory.md R53). An access while reset is asserted for the first time, before its first clock edge,
falls under R251 (refuse) and under R250 and 60_exceptions.md R237 (3) (a write is lost, a read gives the reset value), and
no rule says which wins. DESIGN CHOICE (log entry 9): R251 does, so the access is refused until the first reset event has
happened. Of two grounds to refuse, R251's gives the name (log entry 9). -/
def accessRefusal (s : State) (off : Offset) (n : Nat) : Option Refusal :=
  if !s.wasReset then some .accessBeforeReset
  else if !definedAccess off n then some .undefinedAccess
  else none

/-- `MemWrite(BASE + off, n, w)` (00_scope.md R12). While reset is asserted "host writes are lost" (70_reset_and_hazards.md
R250), between clock edges too (log entry 8). -/
def windowWrite (off : Offset) (n : Nat) (w : Word) (s : State) : Host.Outcome State Fault Refusal :=
  match accessRefusal s off n with
  | some r => .refused r
  | none => .next (if s.resetLine then s else writeReg s w (regAt off))

/-- `MemRead(BASE + off, n)` (R12). While reset is asserted "host reads return the reset values" (R250). A read changes
nothing (20_memory.md R58). -/
def windowRead (off : Offset) (n : Nat) (s : State) : Except Refusal Word :=
  match accessRefusal s off n with
  | some r => .error r
  | none => .ok (readReg (if s.resetLine then resetBlock s else s) (regAt off))

/-! ## The bus -/

/-- `BASE` (00_scope.md R8): a multiple of 0x1000. -/
def base (p : Params) : Word := p.basePage ++ 0#12

/-- `BASE + off` (44_host_access.md R190). -/
def address (p : Params) (off : Offset) : Word := base p + off.setWidth 32

/-- Whether a bus address falls in the window (20_memory.md R50). -/
def selected (p : Params) (addr : Word) : Bool := addr.extractLsb' 12 20 == p.basePage

/-- The offset the block decodes: "only address bits 11:0" (R50). -/
def offsetOf (addr : Word) : Offset := addr.extractLsb' 0 12

/-- An access of another bus master (60_exceptions.md R244). One outside the window is not the block's and changes nothing;
what a read returns goes to that master, which the model does not hold (log entry 15). -/
def busAccess (a : BusAccess) (s : State) : Host.Outcome State Fault Refusal :=
  match a with
  | .write addr n v => if selected s.params addr then windowWrite (offsetOf addr) n v s else .next s
  | .read addr n =>
    if selected s.params addr then
      match windowRead (offsetOf addr) n s with
      | .error r => .refused r
      | .ok _ => .next s
    else .next s

/-! ## The host's variables and arithmetic -/

/-- The value of a host variable, if some statement has written it (44_host_access.md R193). -/
def getVar : List (HostVar × Word) → HostVar → Option Word
  | [], _ => none
  | (y, v) :: rest, x => if x = y then some v else getVar rest x

/-- Writing a host variable, keeping the list in its canonical form. -/
def setVar : List (HostVar × Word) → HostVar → Word → List (HostVar × Word)
  | [], x, w => [(x, w)]
  | (y, v) :: rest, x, w =>
    if x < y then (x, w) :: (y, v) :: rest
    else if x = y then (x, w) :: rest
    else (y, v) :: setVar rest x w

/-- The canonical form of the variable list: numbers strictly rising. -/
def varsSorted (l : List (HostVar × Word)) : Bool := decide (l.Pairwise fun a b => a.1 < b.1)

/-- Host arithmetic on 32-bit values (R193); none when it reads a variable no statement has written. -/
def evalExpr (l : List (HostVar × Word)) : HostExpr → Option Word
  | .lit w => some w
  | .var x => getVar l x
  | .not a => (evalExpr l a).map fun x => ~~~x
  | .and a b => (evalExpr l a).bind fun x => (evalExpr l b).map fun y => x &&& y
  | .or a b => (evalExpr l a).bind fun x => (evalExpr l b).map fun y => x ||| y
  | .xor a b => (evalExpr l a).bind fun x => (evalExpr l b).map fun y => x ^^^ y
  | .add a b => (evalExpr l a).bind fun x => (evalExpr l b).map fun y => x + y
  | .sub a b => (evalExpr l a).bind fun x => (evalExpr l b).map fun y => x - y
  | .shl a n => (evalExpr l a).map fun (x : Word) => x <<< n.val
  | .shr a n => (evalExpr l a).map fun (x : Word) => x >>> n.val

/-- The index of the statement a label stands on (R83, R193). -/
def labelIndex (p : HostProgram) (l : HostLabel) : Option Nat := p.findIdx? fun line => line.label == some l

end Sys2Proof.Machine
end

