-- ==== Sys2Proof/Machine/Binary128.lean ====
section
/-! DEFINITION. Sys2Proof/Machine/Binary128.lean: the binary128 format (00_scope.md R7, R14; 40_fp_arith.md R91 to R94), the
rounding function (R96, R97) and the NaN that results hold (R99). Exact rationals are a numerator, a denominator and a
power of two. -/

namespace Sys2Proof.Machine

/-! ## The format -/

/-- `sign(q)` (00_scope.md R14). -/
def sign (q : Quad) : Bool := q.getLsbD 127

/-- `expo(q)` (R14). -/
def expo (q : Quad) : BitVec 15 := q.extractLsb' 112 15

/-- `frac(q)` (R14). -/
def frac (q : Quad) : BitVec 112 := q.extractLsb' 0 112

/-- `pack(s, E, F)` (R14). -/
def pack (s : Bool) (e : BitVec 15) (f : BitVec 112) : Quad := BitVec.ofBool s ++ e ++ f

/-- The classes of 40_fp_arith.md R91. -/
def isNaN (q : Quad) : Bool := expo q == 0x7FFF#15 && frac q != 0

/-- R91. -/
def isInf (q : Quad) : Bool := expo q == 0x7FFF#15 && frac q == 0

/-- R91: the class Zero, which a subnormal pattern is not in. -/
def isZero (q : Quad) : Bool := expo q == 0 && frac q == 0

/-- R91. -/
def isSubnormal (q : Quad) : Bool := expo q == 0 && frac q != 0

/-- R91. -/
def isNormal (q : Quad) : Bool := expo q != 0 && expo q != 0x7FFF#15

/-- `isz(q)`: Zero or Subnormal, which the arithmetic reads as a zero (R93). -/
def isz (q : Quad) : Bool := isZero q || isSubnormal q

/-- `sig(q)` (R92): the 113-bit significand of a Normal, 0 of a Zero or Subnormal. -/
def sig (q : Quad) : Nat := if isNormal q then 2 ^ 112 + (frac q).toNat else 0

/-- The exponent of `val(q) = sig(q) * 2^(expo(q) - 16383 - 112)` (R94). -/
def scale (q : Quad) : Int := ((expo q).toNat : Int) - 16383 - 112

/-! ## Rounding and packing -/

/-- The e with `2^e <= n/d < 2^(e+1)` (R96), for n, d > 0. -/
def floorLog2 (n d : Nat) : Int :=
  let e : Int := (Nat.log2 n : Int) - (Nat.log2 d : Int)
  if d * 2 ^ e.toNat ≤ n * 2 ^ (-e).toNat then e else e - 1

/-- The rational n/d rounded to an integer, to nearest, ties to even (R96: m, f and the round-up condition, with f = r/d
compared as `2 * r` against d). -/
def roundNearestEven (n d : Nat) : Nat :=
  let m := n / d
  let r := n % d
  if d < 2 * r ∨ (2 * r = d ∧ m % 2 = 1) then m + 1 else m

/-- `roundpack(s, v)` (R96) for `v = (n/d) * 2^k` with n, d > 0: overflow to Infinity (R98), underflow to a signed zero after
rounding (R100). -/
def roundpack (s : Bool) (n d : Nat) (k : Int) : Quad :=
  let e := floorLog2 n d
  let m := roundNearestEven (n * 2 ^ (112 - e).toNat) (d * 2 ^ (e - 112).toNat)
  let m' := if m = 2 ^ 113 then 2 ^ 112 else m
  let e' := if m = 2 ^ 113 then e + k + 1 else e + k
  let E := e' + 16383
  if 0x7FFF ≤ E then pack s 0x7FFF 0
  else if E ≤ 0 then pack s 0 0
  else pack s (BitVec.ofInt 15 E) (BitVec.ofNat 112 (m' - 2 ^ 112))

/-- The guard, round and sticky bits of a discarded part f = r/d with `r < d` (R97). -/
def grsBits (r d : Nat) : Nat :=
  let g := 2 * r / d
  let rd := 4 * r / d % 2
  let st := if 4 * r % d = 0 then 0 else 1
  4 * g + 2 * rd + st

/-- The source's round-up condition (R97): "GRS ≥ 0b101, or GRS == 0b100 and the retained LSB is 1". -/
def roundUpGRS (m r d : Nat) : Bool := decide (5 ≤ grsBits r d ∨ (grsBits r d = 4 ∧ m % 2 = 1))

/-! ## NaN results -/

/-- The canonical NaN (R99). -/
def qnan : Quad := 0x7FFF8000000000000000000000000000#128

/-- A draw from the patterns of class NaN: sign and fraction are the drawn bits, a zero fraction being replaced by 1. -/
def drawNaN (x : Quad) : Quad := pack (sign x) 0x7FFF (if frac x = 0 then 1 else frac x)

/-- The NaN a command produces (R99, `NAN_OUT`), given the draw it may take. -/
def nanResult (p : Params) (draw : Wide) : Quad :=
  match p.nanOut with
  | .canonical => qnan
  | .anyNan => drawNaN (draw.setWidth 128)

/-- The draw of the command that completes in this state (log entry 5). -/
def State.draw (s : State) : Wide := Config.freeBits s.draws

end Sys2Proof.Machine
end

