-- ==== Sys2Proof/Machine/Conversion.lean ====
section
/-! DEFINITION. Sys2Proof/Machine/Conversion.lean: the conversions between binary128 and integers, float32 and float64
(41_fp_conversion.md R130 to R151). -/

namespace Sys2Proof.Machine

/-- `bitlen(m)` for m > 0 (00_scope.md R10). -/
def bitlen (m : Nat) : Nat := Nat.log2 m + 1

/-- `intpack(s, m)` (R131, `INT_TO_Q_ROUND`). -/
def intpack (p : Params) (s : Bool) (m : Nat) : Quad :=
  if m = 0 then pack false 0 0
  else
    let n := bitlen m
    if n ≤ 113 then pack s (BitVec.ofNat 15 (n - 1 + 16383)) (BitVec.ofNat 112 (m * 2 ^ (113 - n) - 2 ^ 112))
    else match p.intToQRound with
      | .trunc => pack s (BitVec.ofNat 15 (n - 1 + 16383)) (BitVec.ofNat 112 (m / 2 ^ (n - 113) - 2 ^ 112))
      | .rne => roundpack s m 1 0

/-- `intpack((v < 0) ? 1 : 0, |v|)` of a signed integer (R132, R134). -/
def intpackSigned (p : Params) (v : Int) : Quad := intpack p (decide (v < 0)) v.natAbs

/-- `fromnarrow(x, k, p, B)` (R140, `SRC_SUBNORMAL`): a narrow float of k exponent and f fraction bits, bias B. -/
def fromnarrow (pr : Params) (k f B : Nat) (x : BitVec (1 + k + f)) : Quad :=
  let s := x.getLsbD (k + f)
  let E := (x.extractLsb' f k).toNat
  let F := (x.extractLsb' 0 f).toNat
  let wideF := BitVec.ofNat 112 (F * 2 ^ (112 - f))
  if E = 2 ^ k - 1 then pack s 0x7FFF wideF
  else if E = 0 then
    if F = 0 then pack s 0 0
    else match pr.srcSubnormal with
      | .flush => pack s 0 0
      | .exact => roundpack s F 1 (1 - (B : Int) - f)
  else pack s (BitVec.ofNat 15 (E + 16383 - B)) wideF

/-- `(-1)^sign(a) * floor(val(a))` (R141): the operand truncated toward zero. -/
def truncInt (a : Quad) : Int :=
  let m : Nat := sig a * 2 ^ (scale a).toNat / 2 ^ (-scale a).toNat
  if sign a then -(m : Int) else m

/-- Whether an integer is in the target's range (R141). -/
def inRange (signed : Bool) (n : Nat) (t : Int) : Bool :=
  if signed then decide (-(2 ^ (n - 1) : Int) ≤ t ∧ t < 2 ^ (n - 1)) else decide (0 ≤ t ∧ t < 2 ^ n)

/-- `toint(a, N)` (R141, `FP_TO_INT_OOR`), given the draw it may take for a result out of range. A NaN and an Infinity give 0
under both policies (92_eei_decisions.md D26, 93_implementation_defined.md row 7; log entry 6). -/
def toint (p : Params) (draw : Wide) (signed : Bool) (n : Nat) (a : Quad) : BitVec n :=
  if isNaN a || isInf a then 0
  else if isz a then 0
  else
    let t := truncInt a
    if inRange signed n t then BitVec.ofInt n t
    else match p.fpToIntOor with
      | .wrap => BitVec.ofInt n t
      | .any => draw.setWidth n

/-- A narrow float from its fields (R150). -/
def packNarrow {k f : Nat} (s : Bool) (e : BitVec k) (fr : BitVec f) : BitVec (1 + k + f) := BitVec.ofBool s ++ e ++ fr

/-- `NNAN(k)` (R150): sign 0, exponent all ones, the top fraction bit alone. -/
def narrowNaN (k f : Nat) : BitVec (1 + k + f) := packNarrow false (BitVec.allOnes k) (BitVec.twoPow f (f - 1))

/-- `tonarrow(a, k, p, B)` (R150): a truncating conversion to a narrow float (log entry 14). -/
def tonarrow (k f B : Nat) (a : Quad) : BitVec (1 + k + f) :=
  let s := sign a
  let En : Int := ((expo a).toNat : Int) - 16383 + B
  if isNaN a then narrowNaN k f
  else if isInf a then packNarrow s (BitVec.allOnes k) 0
  else if isz a then packNarrow s 0 0
  else if (2 ^ k - 1 : Int) ≤ En then packNarrow s (BitVec.allOnes k) 0
  else if En ≤ 0 then packNarrow s 0 0
  else packNarrow s (BitVec.ofInt k En) ((frac a).extractLsb' (112 - f) f)

/-! ## To binary128 -/

/-- FCVT.Q.W (R132). -/
def execFcvtQW (s : State) : Host.Outcome State Fault Refusal :=
  .next (completeWith (intpackSigned s.params s.a32.toInt) s)

/-- FCVT.Q.WU (R133). -/
def execFcvtQWU (s : State) : Host.Outcome State Fault Refusal :=
  .next (completeWith (intpack s.params false s.a32.toNat) s)

/-- FCVT.Q.L (R134). -/
def execFcvtQL (s : State) : Host.Outcome State Fault Refusal :=
  .next (completeWith (intpackSigned s.params s.a64.toInt) s)

/-- FCVT.Q.LU (R135). -/
def execFcvtQLU (s : State) : Host.Outcome State Fault Refusal :=
  .next (completeWith (intpack s.params false s.a64.toNat) s)

/-- FCVT.Q.U128 (R136). -/
def execFcvtQU128 (s : State) : Host.Outcome State Fault Refusal :=
  .next (completeWith (intpack s.params false s.a128.toNat) s)

/-- FCVT.Q.U256 (R137). -/
def execFcvtQU256 (s : State) : Host.Outcome State Fault Refusal :=
  .next (completeWith (intpack s.params false s.a256.toNat) s)

/-- FCVT.Q.S (R138). -/
def execFcvtQS (s : State) : Host.Outcome State Fault Refusal :=
  .next (completeWith (fromnarrow s.params 8 23 127 s.a32) s)

/-- FCVT.Q.D (R139). -/
def execFcvtQD (s : State) : Host.Outcome State Fault Refusal :=
  .next (completeWith (fromnarrow s.params 11 52 1023 s.a64) s)

/-! ## From binary128 -/

/-- FCVT.W.Q (R142): the int32 is not sign-extended. -/
def execFcvtWQ (s : State) : Host.Outcome State Fault Refusal :=
  .next (completeWith (toint s.params s.draw true 32 s.a128) s)

/-- FCVT.WU.Q (R143). -/
def execFcvtWUQ (s : State) : Host.Outcome State Fault Refusal :=
  .next (completeWith (toint s.params s.draw false 32 s.a128) s)

/-- FCVT.L.Q (R144): the int64 is not sign-extended. -/
def execFcvtLQ (s : State) : Host.Outcome State Fault Refusal :=
  .next (completeWith (toint s.params s.draw true 64 s.a128) s)

/-- FCVT.LU.Q (R145). -/
def execFcvtLUQ (s : State) : Host.Outcome State Fault Refusal :=
  .next (completeWith (toint s.params s.draw false 64 s.a128) s)

/-- FCVT.U128.Q (R146). -/
def execFcvtU128Q (s : State) : Host.Outcome State Fault Refusal :=
  .next (completeWith (toint s.params s.draw false 128 s.a128) s)

/-- FCVT.U256.Q (R147). -/
def execFcvtU256Q (s : State) : Host.Outcome State Fault Refusal :=
  .next (completeWith (toint s.params s.draw false 256 s.a128) s)

/-- FCVT.S.Q (R148). -/
def execFcvtSQ (s : State) : Host.Outcome State Fault Refusal :=
  .next (completeWith (tonarrow 8 23 127 s.a128) s)

/-- FCVT.D.Q (R149). -/
def execFcvtDQ (s : State) : Host.Outcome State Fault Refusal :=
  .next (completeWith (tonarrow 11 52 1023 s.a128) s)

end Sys2Proof.Machine
end

