-- ==== Sys2Proof/Machine/Division.lean ====
section
/-! DEFINITION. Sys2Proof/Machine/Division.lean: the integer division commands (43_long_division.md R210 to R215). "Results
are normative; the algorithm is not" (R216), so quotient and remainder are the exact ones; the reference algorithm stands in
KnuthD.lean. -/

namespace Sys2Proof.Machine

/-- A division command on W-bit operands (R211): `raise DivideByZero` when B = 0, else completion with the results `r` and
`q` make of the exact quotient and remainder (R210). -/
def divide {W : Nat} (a b : BitVec W) (result second : BitVec W → BitVec W → BitVec W) (s : State) : State :=
  if b = 0 then raiseError .divideByZero s
  else complete (place (result (a / b) (a % b))) (place (second (a / b) (a % b))) .none s

/-! ## W = 128 -/

/-- DIV.U128 (R212): RES is the quotient and REM 0. -/
def execDivU128 (s : State) : Host.Outcome State Fault Refusal :=
  .next (divide s.a128 s.b128 (fun q _ => q) (fun _ _ => 0) s)

/-- MOD.U128 (R213): RES is the remainder and REM 0. -/
def execModU128 (s : State) : Host.Outcome State Fault Refusal :=
  .next (divide s.a128 s.b128 (fun _ r => r) (fun _ _ => 0) s)

/-- DIVREM.U128 (R214): RES is the quotient and REM the remainder. -/
def execDivremU128 (s : State) : Host.Outcome State Fault Refusal :=
  .next (divide s.a128 s.b128 (fun q _ => q) (fun _ r => r) s)

/-! ## W = 256 -/

/-- DIV.U256 (R212): RES is the quotient and REM 0. -/
def execDivU256 (s : State) : Host.Outcome State Fault Refusal :=
  .next (divide s.a256 s.b256 (fun q _ => q) (fun _ _ => 0) s)

/-- MOD.U256 (R213): RES is the remainder and REM 0. -/
def execModU256 (s : State) : Host.Outcome State Fault Refusal :=
  .next (divide s.a256 s.b256 (fun _ r => r) (fun _ _ => 0) s)

/-- DIVREM.U256 (R214): RES is the quotient and REM the remainder. -/
def execDivremU256 (s : State) : Host.Outcome State Fault Refusal :=
  .next (divide s.a256 s.b256 (fun q _ => q) (fun _ r => r) s)

end Sys2Proof.Machine
end

