-- ==== Sys2Proof/Machine/FpArith.lean ====
section
/-! DEFINITION. Sys2Proof/Machine/FpArith.lean: FADD.Q, FSUB.Q, FMUL.Q, FDIV.Q and FCLASS.Q (40_fp_arith.md R90 to R113). -/

namespace Sys2Proof.Machine

/-- `zerosum(a, b)` (R106, `ZERO_SUM_SIGN`). -/
def zerosum (p : Params) (a b : Quad) : Quad :=
  match p.zeroSumSign with
  | .plus => pack false 0 0
  | .ieee => pack (sign a && sign b) 0 0

/-- `sval(q)` (R94) in units of `2^(e - 16383 - 112)`, for e at most `expo(q)`. -/
def svalUnits (q : Quad) (e : Nat) : Int :=
  let v : Int := (sig q * 2 ^ ((expo q).toNat - e) : Nat)
  if sign q then -v else v

/-- R104 to R106: binary128 addition, given the NaN it produces. The exact sum S is an integer in units of the smaller
operand's last place. -/
def fadd (p : Params) (nan a b : Quad) : Quad :=
  if isNaN a || isNaN b then nan
  else if isInf a && isInf b then (if sign a = sign b then a else nan)
  else if isInf a then pack (sign a) 0x7FFF 0
  else if isInf b then pack (sign b) 0x7FFF 0
  else
    let e := min (expo a).toNat (expo b).toNat
    let S := svalUnits a e + svalUnits b e
    if S = 0 then zerosum p a b
    else roundpack (decide (S < 0)) S.natAbs 1 ((e : Int) - 16383 - 112)

/-- `b XOR 2^127` (R107). -/
def negate (b : Quad) : Quad := b ^^^ (1#128 <<< 127)

/-- R107: subtraction is the addition of the negated b. -/
def fsub (p : Params) (nan a b : Quad) : Quad := fadd p nan a (negate b)

/-- R108, R109: binary128 multiplication. -/
def fmul (nan a b : Quad) : Quad :=
  let s := sign a ^^ sign b
  if isNaN a || isNaN b then nan
  else if (isInf a && isz b) || (isz a && isInf b) then nan
  else if isInf a || isInf b then pack s 0x7FFF 0
  else if isz a || isz b then pack s 0 0
  else roundpack s (sig a * sig b) 1 (scale a + scale b)

/-- R110, R111: binary128 division, rounded from the exact rational quotient. -/
def fdiv (nan a b : Quad) : Quad :=
  let s := sign a ^^ sign b
  if isNaN a || isNaN b then nan
  else if isInf a && isInf b then nan
  else if isz a && isz b then nan
  else if isInf a then pack s 0x7FFF 0
  else if isInf b then pack s 0 0
  else if isz b then pack s 0x7FFF 0
  else if isz a then pack s 0 0
  else roundpack s (sig a) (sig b) (scale a - scale b)

/-- R112: the class mask, bit 0 IsNaN up to bit 4 IsNegative. -/
def fclass (a : Quad) : BitVec 5 :=
  BitVec.ofBool (sign a) ++ BitVec.ofBool (isSubnormal a) ++ BitVec.ofBool (isZero a) ++ BitVec.ofBool (isInf a)
    ++ BitVec.ofBool (isNaN a)

/-- FADD.Q (R104). -/
def execFaddQ (s : State) : Host.Outcome State Fault Refusal :=
  .next (completeWith (fadd s.params (nanResult s.params s.draw) s.a128 s.b128) s)

/-- FSUB.Q (R107). -/
def execFsubQ (s : State) : Host.Outcome State Fault Refusal :=
  .next (completeWith (fsub s.params (nanResult s.params s.draw) s.a128 s.b128) s)

/-- FMUL.Q (R108). -/
def execFmulQ (s : State) : Host.Outcome State Fault Refusal :=
  .next (completeWith (fmul (nanResult s.params s.draw) s.a128 s.b128) s)

/-- FDIV.Q (R110). -/
def execFdivQ (s : State) : Host.Outcome State Fault Refusal :=
  .next (completeWith (fdiv (nanResult s.params s.draw) s.a128 s.b128) s)

/-- FCLASS.Q (R112). LB is ignored. -/
def execFclassQ (s : State) : Host.Outcome State Fault Refusal :=
  .next (completeWith (fclass s.a128) s)

end Sys2Proof.Machine
end

