-- ==== Sys2Proof/Machine/Integer.lean ====
section
/-! DEFINITION. Sys2Proof/Machine/Integer.lean: the 128-bit and 256-bit unsigned integer commands but for division
(42_integer.md R170 to R184). -/

namespace Sys2Proof.Machine

/-- A shift by n, of which `sh` is the shift by an amount below the width W (R178 to R180, `SHIFT_OVERSIZE`). The amount is
the whole unsigned operand, "not masked and not sign-extended" (30_encoding.md R80). -/
def shiftBy {W : Nat} (p : Params) (sh : BitVec W → Nat → BitVec W) (a n : BitVec W) : BitVec W :=
  if n.toNat < W then sh a n.toNat
  else match p.shiftOversize with
    | .zero => 0
    | .mask => sh a (n.toNat % W)

/-- R178: logical shift left. -/
def shl {W : Nat} (p : Params) (a n : BitVec W) : BitVec W := shiftBy p (fun x k => x <<< k) a n

/-- R179: logical shift right. -/
def shr {W : Nat} (p : Params) (a n : BitVec W) : BitVec W := shiftBy p (fun x k => x >>> k) a n

/-- R181: bit 1 is A < B and bit 0 is A = B, both unsigned. -/
def cmpu {W : Nat} (a b : BitVec W) : BitVec 2 := BitVec.ofBool (a.ult b) ++ BitVec.ofBool (a == b)

/-- R182: the index of the highest set bit, all ones for zero. -/
def highbit {W : Nat} (a : BitVec W) : BitVec W :=
  if a = 0 then BitVec.allOnes W else BitVec.ofNat W (Nat.log2 a.toNat)

/-- R183: the index of the lowest set bit, all ones for zero. -/
def lowbit {W : Nat} (a : BitVec W) : BitVec W :=
  match (List.range W).find? fun i => a.getLsbD i with
  | some i => BitVec.ofNat W i
  | none => BitVec.allOnes W

/-! ## W = 128 -/

/-- ADD.U128 (R171). -/
def execAddU128 (s : State) : Host.Outcome State Fault Refusal :=
  .next (completeWith (s.a128 + s.b128) s)

/-- SUB.U128 (R172). -/
def execSubU128 (s : State) : Host.Outcome State Fault Refusal :=
  .next (completeWith (s.a128 - s.b128) s)

/-- MUL.U128 (R173). -/
def execMulU128 (s : State) : Host.Outcome State Fault Refusal :=
  .next (completeWith (s.a128 * s.b128) s)

/-- AND.U128 (R174). -/
def execAndU128 (s : State) : Host.Outcome State Fault Refusal :=
  .next (completeWith (s.a128 &&& s.b128) s)

/-- OR.U128 (R175). -/
def execOrU128 (s : State) : Host.Outcome State Fault Refusal :=
  .next (completeWith (s.a128 ||| s.b128) s)

/-- XOR.U128 (R176). -/
def execXorU128 (s : State) : Host.Outcome State Fault Refusal :=
  .next (completeWith (s.a128 ^^^ s.b128) s)

/-- NOT.U128 (R177). -/
def execNotU128 (s : State) : Host.Outcome State Fault Refusal :=
  .next (completeWith (~~~s.a128) s)

/-- SHL.U128 (R178). -/
def execShlU128 (s : State) : Host.Outcome State Fault Refusal :=
  .next (completeWith (shl s.params s.a128 s.b128) s)

/-- SHR.U128 (R179). -/
def execShrU128 (s : State) : Host.Outcome State Fault Refusal :=
  .next (completeWith (shr s.params s.a128 s.b128) s)

/-- CMPU.U128 (R181). -/
def execCmpuU128 (s : State) : Host.Outcome State Fault Refusal :=
  .next (completeWith (cmpu s.a128 s.b128) s)

/-- HIGHBIT.U128 (R182). -/
def execHighbitU128 (s : State) : Host.Outcome State Fault Refusal :=
  .next (completeWith (highbit s.a128) s)

/-- LOWBIT.U128 (R183). -/
def execLowbitU128 (s : State) : Host.Outcome State Fault Refusal :=
  .next (completeWith (lowbit s.a128) s)

/-! ## W = 256 -/

/-- ADD.U256 (R171). -/
def execAddU256 (s : State) : Host.Outcome State Fault Refusal :=
  .next (completeWith (s.a256 + s.b256) s)

/-- SUB.U256 (R172). -/
def execSubU256 (s : State) : Host.Outcome State Fault Refusal :=
  .next (completeWith (s.a256 - s.b256) s)

/-- MUL.U256 (R173). -/
def execMulU256 (s : State) : Host.Outcome State Fault Refusal :=
  .next (completeWith (s.a256 * s.b256) s)

/-- AND.U256 (R174). -/
def execAndU256 (s : State) : Host.Outcome State Fault Refusal :=
  .next (completeWith (s.a256 &&& s.b256) s)

/-- OR.U256 (R175). -/
def execOrU256 (s : State) : Host.Outcome State Fault Refusal :=
  .next (completeWith (s.a256 ||| s.b256) s)

/-- XOR.U256 (R176). -/
def execXorU256 (s : State) : Host.Outcome State Fault Refusal :=
  .next (completeWith (s.a256 ^^^ s.b256) s)

/-- NOT.U256 (R177). -/
def execNotU256 (s : State) : Host.Outcome State Fault Refusal :=
  .next (completeWith (~~~s.a256) s)

/-- SHL.U256 (R178). -/
def execShlU256 (s : State) : Host.Outcome State Fault Refusal :=
  .next (completeWith (shl s.params s.a256 s.b256) s)

/-- SHR.U256 (R179). -/
def execShrU256 (s : State) : Host.Outcome State Fault Refusal :=
  .next (completeWith (shr s.params s.a256 s.b256) s)

/-- CMPU.U256 (R181). -/
def execCmpuU256 (s : State) : Host.Outcome State Fault Refusal :=
  .next (completeWith (cmpu s.a256 s.b256) s)

/-- HIGHBIT.U256 (R182). -/
def execHighbitU256 (s : State) : Host.Outcome State Fault Refusal :=
  .next (completeWith (highbit s.a256) s)

/-- LOWBIT.U256 (R183). -/
def execLowbitU256 (s : State) : Host.Outcome State Fault Refusal :=
  .next (completeWith (lowbit s.a256) s)

end Sys2Proof.Machine
end

