-- ==== Sys2Proof/Machine/Dispatch.lean ====
section
/-! DEFINITION. Sys2Proof/Machine/Dispatch.lean: `Exec` of 10_state.md R40 for a legal command word: what the completion step
(R39) does for each command of opcode_table.json, on the operands latched in LA and LB. -/

namespace Sys2Proof.Machine

def exec (i : Instr) (s : State) : Host.Outcome State Fault Refusal :=
  match i with
  | .faddQ => Sys2Proof.Machine.execFaddQ s
  | .fsubQ => Sys2Proof.Machine.execFsubQ s
  | .fmulQ => Sys2Proof.Machine.execFmulQ s
  | .fdivQ => Sys2Proof.Machine.execFdivQ s
  | .fclassQ => Sys2Proof.Machine.execFclassQ s
  | .fcvtQW => Sys2Proof.Machine.execFcvtQW s
  | .fcvtQWU => Sys2Proof.Machine.execFcvtQWU s
  | .fcvtQL => Sys2Proof.Machine.execFcvtQL s
  | .fcvtQLU => Sys2Proof.Machine.execFcvtQLU s
  | .fcvtQU128 => Sys2Proof.Machine.execFcvtQU128 s
  | .fcvtQU256 => Sys2Proof.Machine.execFcvtQU256 s
  | .fcvtQS => Sys2Proof.Machine.execFcvtQS s
  | .fcvtQD => Sys2Proof.Machine.execFcvtQD s
  | .fcvtWQ => Sys2Proof.Machine.execFcvtWQ s
  | .fcvtWUQ => Sys2Proof.Machine.execFcvtWUQ s
  | .fcvtLQ => Sys2Proof.Machine.execFcvtLQ s
  | .fcvtLUQ => Sys2Proof.Machine.execFcvtLUQ s
  | .fcvtU128Q => Sys2Proof.Machine.execFcvtU128Q s
  | .fcvtU256Q => Sys2Proof.Machine.execFcvtU256Q s
  | .fcvtSQ => Sys2Proof.Machine.execFcvtSQ s
  | .fcvtDQ => Sys2Proof.Machine.execFcvtDQ s
  | .addU128 => Sys2Proof.Machine.execAddU128 s
  | .subU128 => Sys2Proof.Machine.execSubU128 s
  | .mulU128 => Sys2Proof.Machine.execMulU128 s
  | .divU128 => Sys2Proof.Machine.execDivU128 s
  | .modU128 => Sys2Proof.Machine.execModU128 s
  | .divremU128 => Sys2Proof.Machine.execDivremU128 s
  | .andU128 => Sys2Proof.Machine.execAndU128 s
  | .orU128 => Sys2Proof.Machine.execOrU128 s
  | .xorU128 => Sys2Proof.Machine.execXorU128 s
  | .notU128 => Sys2Proof.Machine.execNotU128 s
  | .shlU128 => Sys2Proof.Machine.execShlU128 s
  | .shrU128 => Sys2Proof.Machine.execShrU128 s
  | .cmpuU128 => Sys2Proof.Machine.execCmpuU128 s
  | .highbitU128 => Sys2Proof.Machine.execHighbitU128 s
  | .lowbitU128 => Sys2Proof.Machine.execLowbitU128 s
  | .addU256 => Sys2Proof.Machine.execAddU256 s
  | .subU256 => Sys2Proof.Machine.execSubU256 s
  | .mulU256 => Sys2Proof.Machine.execMulU256 s
  | .divU256 => Sys2Proof.Machine.execDivU256 s
  | .modU256 => Sys2Proof.Machine.execModU256 s
  | .divremU256 => Sys2Proof.Machine.execDivremU256 s
  | .andU256 => Sys2Proof.Machine.execAndU256 s
  | .orU256 => Sys2Proof.Machine.execOrU256 s
  | .xorU256 => Sys2Proof.Machine.execXorU256 s
  | .notU256 => Sys2Proof.Machine.execNotU256 s
  | .shlU256 => Sys2Proof.Machine.execShlU256 s
  | .shrU256 => Sys2Proof.Machine.execShrU256 s
  | .cmpuU256 => Sys2Proof.Machine.execCmpuU256 s
  | .highbitU256 => Sys2Proof.Machine.execHighbitU256 s
  | .lowbitU256 => Sys2Proof.Machine.execLowbitU256 s

end Sys2Proof.Machine
end

