-- ==== Sys2Proof/Machine/Agents.lean ====
section
/-! DEFINITION. Sys2Proof/Machine/Agents.lean: the moves of the execution unit (10_state.md R39, R40), of the clock and the
reset input (70_reset_and_hazards.md R250), and of the host (44_host_access.md R193). -/

namespace Sys2Proof.Machine

/-- Completion (10_state.md R39): `Exec(LCMD, LA, LB)` by R40. Decode comes first (60_exceptions.md R236), and an illegal word
completes with IllegalCommand (R231). -/
def completeCommand (s : State) : Host.Outcome State Fault Refusal :=
  match decode s.lcmd with
  | .ok i => exec i s
  | .error _ => .next (raiseError .illegalCommand s)

/-- Whether this clock cycle is the one in which CNT "would reach 0" (R39). -/
def due (s : State) : Bool := s.status.busy && decide (s.cnt ≤ 1)

/-- One clock cycle: reset wins over completion (60_exceptions.md R237); an idle block does nothing (R20). -/
def clockTick (s : State) : Host.Outcome State Fault Refusal :=
  if s.resetLine then .next (resetBlock s)
  else if due s then completeCommand s
  else if s.status.busy then .next { s with cnt := s.cnt - 1 }
  else .next s

/-- `hpc` advances by 1 (44_host_access.md R193). -/
def State.advance (s : State) : State := { s with hpc := s.hpc + 1 }

/-- A host branch (R193): to the labelled statement when taken, else on by 1. -/
def branch (taken : Bool) (l : HostLabel) (s : State) : Host.Outcome State Fault Refusal :=
  if taken then
    match labelIndex s.prog l with
    | some k => .next { s with hpc := k }
    | none => .fault .undefinedHostLabel
  else .next s.advance

/-- One host statement (R193). A `wr` that reads a variable no statement has written AND is an access the model refuses
(20_memory.md R53, 70_reset_and_hazards.md R251) is a fault by R193 and a refusal by those, and no rule says which wins.
DESIGN CHOICE (log entry 11): the value is evaluated before the access is made, so the fault does. -/
def execStmt (c : HostStmt) (s : State) : Host.Outcome State Fault Refusal :=
  match c with
  | .store off n e =>
    match evalExpr s.vars e with
    | none => .fault .unwrittenHostVariable
    | some w =>
      match windowWrite off n w s with
      | .next t => .next t.advance
      | .fault r => .fault r
      | .refused r => .refused r
  | .load off n x =>
    match windowRead off n s with
    | .error r => .refused r
    | .ok w => .next { s with vars := setVar s.vars x w, hpc := s.hpc + 1 }
  | .assign x e =>
    match evalExpr s.vars e with
    | none => .fault .unwrittenHostVariable
    | some w => .next { s with vars := setVar s.vars x w, hpc := s.hpc + 1 }
  | .bz x l =>
    match getVar s.vars x with
    | none => .fault .unwrittenHostVariable
    | some w => branch (w == 0) l s
  | .bnz x l =>
    match getVar s.vars x with
    | none => .fault .unwrittenHostVariable
    | some w => branch (w != 0) l s

/-- The host's move. "The program ends when hpc passes its last statement" (R193): a host that has ended does nothing. -/
def hostStep (s : State) : Host.Outcome State Fault Refusal :=
  match s.prog[s.hpc]? with
  | some line => execStmt line.stmt s
  | none => .next s

/-- One move (10_state.md R20). -/
def applyInput (x : Input) (s : State) : Host.Outcome State Fault Refusal :=
  match x with
  | .tick => clockTick s
  | .host => hostStep s
  | .bus a => busAccess a s
  | .resetLine level => .next { s with resetLine := level }

/-- The next move and the state without it: the first of `inputs`; a tick when none is listed (log entry 2). -/
def takeInput (s : State) : Input × State :=
  match s.inputs with
  | [] => (.tick, s)
  | x :: rest => (x, { s with inputs := rest })

/-- The state in which a command word has just been accepted (10_state.md R37), is due at the next clock cycle, and the next
move is that cycle (log entry 12). The reset input is released, or the cycle would be a reset. -/
def placeCommand (w : Word) (s : State) : State :=
  { acceptCommand w s with
    cnt := 1
    resetLine := false
    inputs := .tick :: s.inputs }

end Sys2Proof.Machine
end

