-- ==== Sys2Proof/Machine/Step.lean ====
section
/-! DEFINITION. Sys2Proof/Machine/Step.lean: one step is one move of 10_state.md R20. -/

namespace Sys2Proof.Machine

/-- One step: the next move, carried out. -/
def step (s : State) : Host.Outcome State Fault Refusal := applyInput (takeInput s).1 (takeInput s).2

/-- The state whose very next step completes the command word of `nbits` and `w` (log entry 12). -/
def State.withFetchWord (s : State) (nbits w : Nat) : State := placeCommand (tableWord nbits w) s

end Sys2Proof.Machine
end

