-- ==== Sys2Proof/Machine/KnuthD.lean ====
section
/-! DEFINITION. Sys2Proof/Machine/KnuthD.lean: the reference algorithm of 43_long_division.md R216, Knuth's Algorithm D on
32-bit digits. It is not normative: the division commands do not call it, and a claim says that it gives their results
(R217). The dividend window is carried as a number: after step D6 the top word of the window is 0 and its other words are t,
so the next window is `t * 2^32` plus the next lower dividend digit (log entry 19). -/

namespace Sys2Proof.Machine

/-- The digit base b (R216). -/
def digitBase : Nat := 2 ^ 32

/-- Digit i of a number, digit 0 least significant (R216). -/
def digit (x i : Nat) : Nat := x / digitBase ^ i % digitBase

/-- The number of significant digits, 0 for 0 (R216: `len(u)`, and n for the divisor). -/
def digitCount (x : Nat) : Nat := if x = 0 then 0 else Nat.log2 x / 32 + 1

/-- The single-word-divisor path of R216: the remainder runs down the dividend's digits. -/
def shortDivide (u v : Nat) : Nat → Nat → Nat → Nat × Nat
  | 0, q, r => (q, r)
  | j + 1, q, r =>
    let t := r * digitBase + digit u j
    shortDivide u v j (q * digitBase + t / v) (t % v)

/-- The correction loop of D3: "while rhat < 2^32 and qhat * vn[n-2] > rhat * 2^32 + un[j+n-2]". Each turn adds at least
2^31 to rhat, so two turns are all the loop can take, and more fuel changes nothing (log entry 19). The result is qhat and
the number of corrections. -/
def correct (vTop vNext uNext : Nat) : Nat → Nat → Nat → Nat × Nat
  | 0, qhat, _ => (qhat, 0)
  | fuel + 1, qhat, rhat =>
    if rhat < digitBase ∧ rhat * digitBase + uNext < qhat * vNext then
      let (q, k) := correct vTop vNext uNext fuel (qhat - 1) (rhat + vTop)
      (q, k + 1)
    else (qhat, 0)

/-- D3's estimate of a digit after the clamp: qhat and rhat. `vn` is the normalised divisor of n >= 2 digits and `win` the
dividend window un[j+n] .. un[j]. -/
def estimate (n vn win : Nat) : Nat × Nat :=
  let vTop := digit vn (n - 1)
  let num := digit win n * digitBase + digit win (n - 1)
  let qhat := min (num / vTop) (digitBase - 1)
  (qhat, num - qhat * vTop)

/-- Whether D3 clamps its estimate: qhat > 0xFFFFFFFF. -/
def clamps (n vn win : Nat) : Bool :=
  decide (digitBase - 1 < (digit win n * digitBase + digit win (n - 1)) / digit vn (n - 1))

/-- The estimate after at most `fuel` turns of the correction loop, and the turns taken. -/
def correctedEstimate (fuel n vn win : Nat) : Nat × Nat :=
  let (qhat, rhat) := estimate n vn win
  correct (digit vn (n - 1)) (digit vn (n - 2)) (digit win (n - 2)) fuel qhat rhat

/-- What one digit position does (R216): the digit, what is left of the window, and which steps fired (R219 counts them). -/
structure DigitStep where
  q : Nat
  t : Nat
  clamped : Bool
  corrections : Nat
  addBack : Bool
  deriving DecidableEq, Repr

/-- One digit position of R216: D3 estimate, clamp and correct, D4 multiply and subtract, D6 add back. -/
def digitStep (n vn win : Nat) : DigitStep :=
  let (qhat, k) := correctedEstimate 2 n vn win
  let tooBig := decide (win < qhat * vn)
  { q := if tooBig then qhat - 1 else qhat
    t := if tooBig then win + vn - qhat * vn else win - qhat * vn
    clamped := clamps n vn win
    corrections := k
    addBack := tooBig }

/-- The digit loop of R216, positions j - 1 down to 0: the quotient so far, what is left of the window, and the steps taken
so far, the last first. -/
def digitLoop (n vn un : Nat) : Nat → Nat → Nat → List DigitStep → Nat × Nat × List DigitStep
  | 0, q, t, log => (q, t, log)
  | j + 1, q, t, log =>
    let d := digitStep n vn (t * digitBase + digit un j)
    digitLoop n vn un j (q * digitBase + d.q) d.t (d :: log)

/-- `DivWords(u, v)` of R216 on operands of N digits, v != 0: quotient, remainder, and the digit steps of the multi-word
path. -/
def divWordsLog (N u v : Nat) : Nat × Nat × List DigitStep :=
  let n := digitCount v
  if n ≤ 1 then
    let (q, r) := shortDivide u (digit v 0) N 0 0
    (q, r, [])
  else if digitCount u < n then (0, u, [])
  else
    let m := digitCount u - n
    let s := 31 - Nat.log2 (digit v (n - 1))
    let vn := v * 2 ^ s
    let un := u * 2 ^ s
    let (q, t, log) := digitLoop n vn un (m + 1) 0 (un / digitBase ^ (m + 1)) []
    (q, t / 2 ^ s, log)

/-- The quotient and the remainder of `DivWords(u, v)` (R216). -/
def divWords (N u v : Nat) : Nat × Nat := ((divWordsLog N u v).1, (divWordsLog N u v).2.1)

end Sys2Proof.Machine
end

