-- ==== Sys2Proof/Machine/Pseudo.lean ====
section
/-! DEFINITION. Sys2Proof/Machine/Pseudo.lean: the host notation's pseudo-instructions as lists of host statements
(30_encoding.md R83, R84). A 256-bit host value is eight expressions or eight variables, word 0 first. -/

namespace Sys2Proof.Machine

/-- Eight host expressions, word 0 first. -/
abbrev HostWide := BitVec 3 → HostExpr

/-- A constant 256-bit host value. -/
def wideLit (v : Wide) : HostWide := fun i => .lit (wordAt v i)

/-- The 256-bit host value held in the variables r, r + 1, .. r + 7. -/
def wideVar (r : HostVar) : HostWide := fun i => .var (r + i.toNat)

/-- The word indices 0 to 7. -/
def wordIndices : List (BitVec 3) := [0, 1, 2, 3, 4, 5, 6, 7]

/-- A statement without a label. -/
def unlabelled (c : HostStmt) : HostLine := { label := none, stmt := c }

/-- The offset of word i of the group that starts at an offset (10_state.md R21). -/
def wordOffset (start : Offset) (i : BitVec 3) : Offset := start + 4 * i.setWidth 12

/-- `ldopa v` and `ldopb v`: "8 writes, word 0 first". -/
def loadOperand (start : Offset) (v : HostWide) : HostProgram :=
  wordIndices.map fun i => unlabelled (.wr (wordOffset start i) (v i))

/-- `ldopa v`. -/
def ldopa (v : HostWide) : HostProgram := loadOperand 0x000 v

/-- `ldopb v`. -/
def ldopb (v : HostWide) : HostProgram := loadOperand 0x020 v

/-- `cmd MNEMONIC` (R83). -/
def cmd (i : Instr) : HostProgram := [unlabelled (.wr 0x040 (.lit (encode i)))]

/-- `wait`: `w: rd 0x044 -> t; t <- t AND 1; bnz t, w`. -/
def wait (t : HostVar) (w : HostLabel) : HostProgram :=
  [ { label := some w, stmt := .rd 0x044 t },
    unlabelled (.assign t (.and (.var t) (.lit 1))),
    unlabelled (.bnz t w) ]

/-- Eight reads from a result register into r, r + 1, .. r + 7, word 0 first. -/
def readResult (start : Offset) (r : HostVar) : HostProgram :=
  wordIndices.map fun i => unlabelled (.rd (wordOffset start i) (r + i.toNat))

/-- `getres -> r`. -/
def getres (r : HostVar) : HostProgram := readResult 0x080 r

/-- `getrem -> q`. -/
def getrem (q : HostVar) : HostProgram := readResult 0x0A0 q

/-- `OPN r, a, b`: `ldopa a; ldopb b; cmd OPN; wait; getres -> r`. -/
def opn (i : Instr) (r : HostVar) (a b : HostWide) (t : HostVar) (w : HostLabel) : HostProgram :=
  ldopa a ++ ldopb b ++ cmd i ++ wait t w ++ getres r

/-- `SHL1` and `SHR1`: the shift command with the amount 1. -/
def shiftByOne (i : Instr) (r : HostVar) (a : HostWide) (t : HostVar) (w : HostLabel) : HostProgram :=
  opn i r a (wideLit 1) t w

/-- `r[..] <- 0` for some words of a 256-bit host value. -/
def clearWords (r : HostVar) (words : List (BitVec 3)) : HostProgram :=
  words.map fun i => unlabelled (.assign (r + i.toNat) (.lit 0))

/-- The relations the host makes of a CMPU result (R84). -/
inductive Relation where
  | eq | ne | ltu | leu | gtu | geu
  deriving DecidableEq, Repr

/-- Bit 0 of CMPU: A = B. -/
def eqBit (c : HostExpr) : HostExpr := .and c (.lit 1)

/-- Bit 1 of CMPU: A < B. -/
def ltBit (c : HostExpr) : HostExpr := .and (.shr c 1) (.lit 1)

/-- The negation of a truth bit, which is 0 or 1 again. R84 writes `NOT` alone; that it negates the truth bit and not all 32
or 256 bits is the model's choice (DESIGN CHOICE, log entry 22). -/
def notBit (c : HostExpr) : HostExpr := .and (.not c) (.lit 1)

/-- R84: "GEU = NOT LTU; LEU = LTU OR EQ; GTU = NOT LEU; NE = NOT EQ". -/
def relationExpr (c : HostExpr) : Relation → HostExpr
  | .eq => eqBit c
  | .ne => notBit (eqBit c)
  | .ltu => ltBit c
  | .geu => notBit (ltBit c)
  | .leu => .or (ltBit c) (eqBit c)
  | .gtu => notBit (.or (ltBit c) (eqBit c))

/-- `EQ r, a, b` and the others: the CMPU command, then host arithmetic on its 256-bit result. R84 writes `r <- r AND 1` on
a 256-bit r where 44_host_access.md R193 has host arithmetic on 32-bit values alone. DESIGN CHOICE (log entry 22): the
256-bit operation is eight 32-bit ones, word 0 taking the relation's truth bit and words 1 to 7 their 32 bits of `AND 1`,
which are 0 whatever RES was read. -/
def compare (i : Instr) (rel : Relation) (r : HostVar) (a b : HostWide) (t : HostVar) (w : HostLabel) : HostProgram :=
  opn i r a b t w ++ unlabelled (.assign r (relationExpr (.var r) rel)) :: clearWords r (wordIndices.drop 1)

/-- `TRUNC.U128.U256 r, a`: `r <- a[127:0]`; no command. What r[255:128] holds after it R84 does not say, as it does for ZEXT.
DESIGN CHOICE (log entry 22): the result is a 128-bit value, so words 0 to 3 are written and words 4 to 7 are left as they
were. -/
def truncU128 (r : HostVar) (a : HostWide) : HostProgram :=
  (wordIndices.take 4).map fun i => unlabelled (.assign (r + i.toNat) (a i))

/-- `ZEXT.U256.U128 r, a`: `r <- a[127:0]` with `r[255:128] = 0`; no command. -/
def zextU256 (r : HostVar) (a : HostWide) : HostProgram :=
  truncU128 r a ++ clearWords r (wordIndices.drop 4)

end Sys2Proof.Machine
end

