-- ==== Sys2Proof/Safety.lean ====
section
/-! DEFINITION. Sys2Proof/Safety.lean: the terms claims use: the binary128 format and its rounding over the rationals
(40_fp_arith.md R91 to R96), completed states (10_state.md R39), the machine's invariant, the host's duties, the launch
premise and the end of a run (44_host_access.md R196, R197; 70_reset_and_hazards.md R254). Nothing here is called by the
machine: the numeric terms are written from the rules a second time, over Nat and the rationals. -/

namespace Sys2Proof.Claims

open Sys2Proof.Machine

/-! ## The binary128 format, by arithmetic on the pattern's number -/

/-- `sign(q)` as 0 or 1 (00_scope.md R14). -/
def signOf (q : Quad) : Nat := q.toNat / 2 ^ 127

/-- `expo(q)` (R14). -/
def expoOf (q : Quad) : Nat := q.toNat / 2 ^ 112 % 2 ^ 15

/-- `frac(q)` (R14). -/
def fracOf (q : Quad) : Nat := q.toNat % 2 ^ 112

/-- `pack(s, E, F)` (R14). -/
def quad (s e f : Nat) : Quad := BitVec.ofNat 128 (s * 2 ^ 127 + e * 2 ^ 112 + f)

/-- Class NaN (40_fp_arith.md R91). -/
abbrev ClassNaN (q : Quad) : Prop := expoOf q = 0x7FFF ∧ fracOf q ≠ 0

/-- Class Infinity (R91). -/
abbrev ClassInf (q : Quad) : Prop := expoOf q = 0x7FFF ∧ fracOf q = 0

/-- Class Zero (R91). -/
abbrev ClassZero (q : Quad) : Prop := expoOf q = 0 ∧ fracOf q = 0

/-- Class Subnormal (R91). -/
abbrev ClassSubnormal (q : Quad) : Prop := expoOf q = 0 ∧ fracOf q ≠ 0

/-- Class Normal (R91). -/
abbrev ClassNormal (q : Quad) : Prop := 0 < expoOf q ∧ expoOf q < 0x7FFF

/-- `isz(q)`: Zero or Subnormal (R93). -/
abbrev ReadsAsZero (q : Quad) : Prop := expoOf q = 0

/-- `val(q) = sig(q) * 2^(expo(q) - 16383 - 112)` (R92, R94), an exact rational. -/
def val (q : Quad) : ℚ :=
  if ClassNormal q then ((2 ^ 112 + fracOf q : Nat) : ℚ) * (2 : ℚ) ^ ((expoOf q : ℤ) - 16383 - 112) else 0

/-- `sval(q) = (-1)^sign(q) * val(q)` (R94). -/
def sval (q : Quad) : ℚ := (-1) ^ signOf q * val q

/-- `r = roundpack(s, v)`, R96's own lines over the rationals. -/
def Rounds (s : Nat) (v : ℚ) (r : Quad) : Prop :=
  ∃ e : ℤ, (2 : ℚ) ^ e ≤ v ∧ v < (2 : ℚ) ^ (e + 1) ∧
    let t : ℚ := v / (2 : ℚ) ^ (e - 112)
    let m : ℤ := ⌊t⌋
    let f : ℚ := t - m
    let m1 : ℤ := if 1 / 2 < f ∨ (f = 1 / 2 ∧ m % 2 = 1) then m + 1 else m
    let m2 : ℤ := if m1 = 2 ^ 113 then 2 ^ 112 else m1
    let e2 : ℤ := if m1 = 2 ^ 113 then e + 1 else e
    let E : ℤ := e2 + 16383
    r = if 0x7FFF ≤ E then quad s 0x7FFF 0
        else if E ≤ 0 then quad s 0 0
        else quad s E.toNat (m2 - 2 ^ 112).toNat

/-- The NaN pattern a command may produce (R99): QNAN, or under `NAN_OUT = ANY_NAN` any pattern of class NaN. -/
def ProducesNaN (p : Params) (r : Quad) : Prop :=
  match p.nanOut with
  | .canonical => r = 0x7FFF8000_00000000_00000000_00000000#128
  | .anyNan => ClassNaN r

/-- R104 to R106: r is the sum of a and b. -/
def IsSum (p : Params) (a b r : Quad) : Prop :=
  if ClassNaN a ∨ ClassNaN b then ProducesNaN p r
  else if ClassInf a ∧ ClassInf b then (if signOf a = signOf b then r = a else ProducesNaN p r)
  else if ClassInf a then r = quad (signOf a) 0x7FFF 0
  else if ClassInf b then r = quad (signOf b) 0x7FFF 0
  else if sval a + sval b = 0 then
    match p.zeroSumSign with
    | .plus => r = quad 0 0 0
    | .ieee => r = if signOf a = 1 ∧ signOf b = 1 then quad 1 0 0 else quad 0 0 0
  else Rounds (if sval a + sval b < 0 then 1 else 0) |sval a + sval b| r

/-- `sign(a) XOR sign(b)` as 0 or 1. -/
def signXor (a b : Quad) : Nat := (signOf a + signOf b) % 2

/-- R108, R109: r is the product of a and b. -/
def IsProduct (p : Params) (a b r : Quad) : Prop :=
  if ClassNaN a ∨ ClassNaN b then ProducesNaN p r
  else if (ClassInf a ∧ ReadsAsZero b) ∨ (ReadsAsZero a ∧ ClassInf b) then ProducesNaN p r
  else if ClassInf a ∨ ClassInf b then r = quad (signXor a b) 0x7FFF 0
  else if ReadsAsZero a ∨ ReadsAsZero b then r = quad (signXor a b) 0 0
  else Rounds (signXor a b) (val a * val b) r

/-- R110, R111: r is the quotient of a and b. -/
def IsQuotient (p : Params) (a b r : Quad) : Prop :=
  if ClassNaN a ∨ ClassNaN b then ProducesNaN p r
  else if ClassInf a ∧ ClassInf b then ProducesNaN p r
  else if ReadsAsZero a ∧ ReadsAsZero b then ProducesNaN p r
  else if ClassInf a then r = quad (signXor a b) 0x7FFF 0
  else if ClassInf b then r = quad (signXor a b) 0 0
  else if ReadsAsZero b then r = quad (signXor a b) 0x7FFF 0
  else if ReadsAsZero a then r = quad (signXor a b) 0 0
  else Rounds (signXor a b) (val a / val b) r

/-- 41_fp_conversion.md R131: `r = intpack(s, m)`. The exponent e is the one with `2^e <= m < 2^(e+1)`, so `e = bitlen(m) - 1`. -/
def IsIntpack (p : Params) (s m : Nat) (r : Quad) : Prop :=
  if m = 0 then r = quad 0 0 0
  else ∃ e : Nat, 2 ^ e ≤ m ∧ m < 2 ^ (e + 1) ∧
    if e ≤ 112 then r = quad s (e + 16383) (m * 2 ^ (112 - e) - 2 ^ 112)
    else match p.intToQRound with
      | .trunc => r = quad s (e + 16383) (m / 2 ^ (e - 112) - 2 ^ 112)
      | .rne => Rounds s m r

/-- R140: r is the binary128 of the narrow float whose number is x, of k exponent and f fraction bits and bias B. -/
def IsFromNarrow (p : Params) (k f B x : Nat) (r : Quad) : Prop :=
  let s := x / 2 ^ (k + f)
  let E := x / 2 ^ f % 2 ^ k
  let F := x % 2 ^ f
  if E = 2 ^ k - 1 then r = quad s 0x7FFF (F * 2 ^ (112 - f))
  else if E = 0 then
    if F = 0 ∨ p.srcSubnormal = .flush then r = quad s 0 0
    else Rounds s (F * (2 : ℚ) ^ (1 - (B : ℤ) - f)) r
  else r = quad s (E + 16383 - B) (F * 2 ^ (112 - f))

/-- `(-1)^sign(a) * floor(val(a))` (R141). -/
def truncated (a : Quad) : ℤ := (-1) ^ signOf a * ⌊val a⌋

/-- R141 with 92_eei_decisions.md D26: r is the N-bit integer of a, the target range running from lo to hi (hi excluded). A NaN
and an Infinity give 0 under both policies (log entry 6); an out-of-range value is left open under `ANY`. -/
def IsToInt (p : Params) (n : Nat) (lo hi : ℤ) (a : Quad) (r : Nat) : Prop :=
  if ClassNaN a ∨ ClassInf a then r = 0
  else if ReadsAsZero a then r = 0
  else if lo ≤ truncated a ∧ truncated a < hi then (r : ℤ) = truncated a % 2 ^ n
  else (p.fpToIntOor = .wrap → (r : ℤ) = truncated a % 2 ^ n)

/-- R150: the number of the narrow float of a, of k exponent and f fraction bits and bias B. -/
def toNarrow (k f B : Nat) (a : Quad) : Nat :=
  let s := signOf a * 2 ^ (k + f)
  let inf := (2 ^ k - 1) * 2 ^ f
  if ClassNaN a then inf + 2 ^ (f - 1)
  else if ClassInf a then s + inf
  else if ReadsAsZero a then s
  else if (2 ^ k - 1 : ℤ) ≤ (expoOf a : ℤ) - 16383 + B then s + inf
  else if (expoOf a : ℤ) - 16383 + B ≤ 0 then s
  else s + (expoOf a + B - 16383) * 2 ^ f + fracOf a / 2 ^ (112 - f)

/-! ## Steps -/

/-- The state the completion step leaves (10_state.md R39): RES, REM, ERR, BUSY and DONE are written and nothing else is. -/
def completed (s : State) (res rem : Nat) (e : ErrCode) : State :=
  { s with
    res := BitVec.ofNat 256 res
    rem := BitVec.ofNat 256 rem
    status := { busy := false, done := true, drop := s.status.drop, err := e, op := s.status.op } }

/-- The outcome o is a next state, and that state is t but for the countdown and the model's own draw counter, of which this
says nothing (log entries 5 and 7). -/
def Gives (o : Host.Outcome State Fault Refusal) (t : State) : Prop :=
  ∃ c d : Nat, o = .next { t with cnt := c, draws := d }

/-- `DivideByZero` or the results (43_long_division.md R211 to R214), for a divisor given as a number. -/
def dividedOr (s : State) (b res rem : Nat) : State :=
  if b = 0 then completed s 0 0 .divideByZero else completed s res rem .none

/-- The number in the low n bits of a register (10_state.md R43). -/
def low (n : Nat) (v : Wide) : Nat := v.toNat % 2 ^ n

/-- A host access can be made: the block has been reset and reset is not asserted (70_reset_and_hazards.md R250, R251). -/
abbrev Accessible (s : State) : Prop := s.wasReset = true ∧ s.resetLine = false

/-- The command word with this OP decodes to this command (30_encoding.md R72). -/
abbrev Runs (op : Nat) (i : Instr) : Prop := decode (BitVec.ofNat 32 op) = .ok i

/-- The low 128 bits of a register as a binary128 pattern (R43). -/
def quadIn (v : Wide) : Quad := BitVec.ofNat 128 v.toNat

/-- What a command leaves in RES when LA and LB hold x and y, if it completes. -/
def resultOf (i : Instr) (s : State) (x y : Wide) : Option Wide :=
  match exec i { s with la := x, lb := y } with
  | .next t => some t.res
  | .fault _ => none
  | .refused _ => none

/-- The bits of A and of B a command reads (R43). -/
def operandBits : Instr → Nat × Nat
  | .faddQ | .fsubQ | .fmulQ | .fdivQ => (128, 128)
  | .fclassQ => (128, 0)
  | .fcvtQW | .fcvtQWU | .fcvtQS => (32, 0)
  | .fcvtQL | .fcvtQLU | .fcvtQD => (64, 0)
  | .fcvtQU256 => (256, 0)
  | .fcvtQU128 | .fcvtWQ | .fcvtWUQ | .fcvtLQ | .fcvtLUQ | .fcvtU128Q | .fcvtU256Q | .fcvtSQ | .fcvtDQ => (128, 0)
  | .addU128 | .subU128 | .mulU128 | .divU128 | .modU128 | .divremU128 | .andU128 | .orU128 | .xorU128 | .shlU128
  | .shrU128 | .cmpuU128 => (128, 128)
  | .notU128 | .highbitU128 | .lowbitU128 => (128, 0)
  | .addU256 | .subU256 | .mulU256 | .divU256 | .modU256 | .divremU256 | .andU256 | .orU256 | .xorU256 | .shlU256
  | .shrU256 | .cmpuU256 => (256, 256)
  | .notU256 | .highbitU256 | .lowbitU256 => (256, 0)

/-- The OP values of R74: "0x00 to 0x0F, 0x15 to 0x1F, 0x30 to 0x3F, 0x4F, 0x5F and 0x60 to 0xFF". -/
abbrev ReservedOp (op : Nat) : Prop :=
  op ≤ 0x0F ∨ (0x15 ≤ op ∧ op ≤ 0x1F) ∨ (0x30 ≤ op ∧ op ≤ 0x3F) ∨ op = 0x4F ∨ op = 0x5F ∨ (0x60 ≤ op ∧ op ≤ 0xFF)

/-- An illegal command word: bits 31:8 not all zero (R75), or a reserved OP (R74). -/
abbrev IllegalWord (w : Word) : Prop := w.toNat / 2 ^ 8 ≠ 0 ∨ ReservedOp (w.toNat % 2 ^ 8)

/-- The offset of word i of the register group that starts at an offset (10_state.md R21). -/
def wordOff (start : Nat) (i : Nat) : Offset := BitVec.ofNat 12 (start + 4 * i)

/-- The command held in RES, REM and ERR is the one in LCMD, LA and LB: some completion of those gives these (R29). -/
def HoldsResultOfCommand (s : State) : Prop :=
  ∃ t t' : State, t.lcmd = s.lcmd ∧ t.la = s.la ∧ t.lb = s.lb ∧ t.params = s.params ∧
    completeCommand t = .next t' ∧ t'.res = s.res ∧ t'.rem = s.rem ∧ t'.status.err = s.status.err

/-- The machine's invariant (10_state.md R27 to R32, R39). -/
def Inv (s : State) : Prop :=
  ¬(s.status.busy = true ∧ s.status.done = true) ∧
  (s.status.busy = true →
    s.status.err = .none ∧ 1 ≤ s.cnt ∧ s.cnt ≤ latency s.params (s.lcmd.extractLsb' 0 8) ∧
      s.status.op = s.lcmd.extractLsb' 0 8) ∧
  (s.status.done = true → s.status.op = s.lcmd.extractLsb' 0 8 ∧ HoldsResultOfCommand s) ∧
  (s.status.busy = false → s.status.done = false → s.status = Status.reset) ∧
  varsSorted s.vars = true

/-! ## Host programs -/

/-- "No command is in flight" and the block has been reset (70_reset_and_hazards.md R254). -/
def launch (s : State) : Bool := s.wasReset && !s.status.busy && s.hpc == 0 && s.vars.isEmpty

/-- A run has ended (44_host_access.md R197): the host program has passed its last statement and BUSY = 0. -/
def runEnded (s : State) : Bool := decide (s.prog.length ≤ s.hpc) && !s.status.busy

/-- What a run is observed by (R197). -/
structure Observation where
  opa : Wide
  opb : Wide
  res : Wide
  rem : Wide
  status : Word
  vars : List (HostVar × Word)
  deriving DecidableEq, Repr

/-- R197: "the final values of OPA, OPB, RES, REM and STATUS, together with the host variables". -/
def observe (s : State) : Observation where
  opa := s.opa
  opb := s.opb
  res := s.res
  rem := s.rem
  status := s.status.word
  vars := s.vars

/-! ## The host's duties

Duties 1 and 2 of 44_host_access.md R196 speak of what the host has READ since its last CMD write, so a claim carries that
along a run. Duty 3, program order, holds of the modelled host by its form. -/

/-- What the host has read of STATUS since its last CMD write (R196). -/
structure HostView where
  /-- It has read BUSY = 0. -/
  readIdle : Bool
  /-- It has read DONE = 1. -/
  readDone : Bool
  deriving DecidableEq, Repr

/-- What the host knows at launch. The launch premise of 70_reset_and_hazards.md R254, no command in flight, stands for a
read of BUSY = 0, as the programs of 95_test_vectors.md section 3 write their first CMD without one and are said to obey the
duties (DEDUCED, log entry 23). -/
def HostView.launch : HostView where
  readIdle := true
  readDone := false

/-- The view after one host statement that is carried out in a state: a CMD write forgets what was read, a read of STATUS
adds what it returns. -/
def HostView.after (v : HostView) (c : HostStmt) (s : State) : HostView :=
  match c with
  | .store off _ _ => if regAt off = .cmd then { readIdle := false, readDone := false } else v
  | .load off n _ =>
    match regAt off, windowRead off n s with
    | .status, .ok w => { readIdle := v.readIdle || !w.getLsbD 0, readDone := v.readDone || w.getLsbD 1 }
    | _, _ => v
  | .assign _ _ => v
  | .bz _ _ => v
  | .bnz _ _ => v

/-- What the view says is true of the block. -/
def HostView.Holds (v : HostView) (s : State) : Prop :=
  (v.readIdle = true → s.status.busy = false) ∧ (v.readDone = true → s.status.done = true)

/-- Whether a register is read only after DONE = 1 has been read (R196, duty 2). -/
def Reg.isResult : Reg → Bool
  | .res _ => true
  | .rem _ => true
  | .opa _ => false
  | .opb _ => false
  | .cmd => false
  | .status => false
  | .reserved => false

/-- Duties 1, 2 and 4 of R196 for one host statement: CMD is written only after BUSY = 0 has been read, "or it accepts the
drop"; RES and REM are read only after DONE = 1 has been read; and every access is a defined one. -/
def keepsDuties (acceptsDrop : Bool) (v : HostView) (c : HostStmt) : Bool :=
  match c with
  | .store off n _ => definedAccess off n && (regAt off != .cmd || v.readIdle || acceptsDrop)
  | .load off n _ => definedAccess off n && (!Reg.isResult (regAt off) || v.readDone)
  | .assign _ _ => true
  | .bz _ _ => true
  | .bnz _ _ => true

/-- The host statement the next step carries out, if its move is the host's and the program has not ended. -/
def hostMove? (s : State) : Option HostStmt :=
  if s.inputs.head? = some .host then s.prog[s.hpc]?.map HostLine.stmt else none

/-- The view after the next step. -/
def HostView.next (v : HostView) (s : State) : HostView :=
  match hostMove? s with
  | some c => v.after c s
  | none => v

/-- Whether the next step keeps the host's duties. -/
def moveKeepsDuties (acceptsDrop : Bool) (v : HostView) (s : State) : Bool :=
  match hostMove? s with
  | some c => keepsDuties acceptsDrop v c
  | none => true

/-- Whether every one of the next k steps keeps the host's duties (R196); `accepts` says of each statement index whether the
host accepts the drop of a CMD write there. -/
def dutifulRun (accepts : Nat → Bool) : Nat → HostView → State → Bool
  | 0, _, _ => true
  | k + 1, v, s =>
    moveKeepsDuties (accepts s.hpc) v s &&
      match step s with
      | .next t => dutifulRun accepts k (v.next s) t
      | .fault _ => true
      | .refused _ => true

end Sys2Proof.Claims
end

