-- ==== Sys2Proof/Certificates/Slice0/Obligations.lean ====
section
/-! DEFINITION. Sys2Proof/Certificates/Slice0/Obligations.lean: the statements for the provers. Results are stated with the
terms of Sys2Proof/Safety.lean, which are written from the rules over Nat and the rationals, apart from the machine. -/

open Sys2Proof Sys2Proof.Machine Sys2Proof.Claims

/-! ## Encoding -/

/-- 30_encoding.md R72, R82: decoding the encoding of any command gives it back, and no other word decodes to it. -/
def Obligations.DecodeInvertsEncodeOnAllWords : Prop :=
  (∀ i : Instr, decode (encode i) = .ok i) ∧ ∀ (w : Word) (i : Instr), decode w = .ok i → w = encode i

/-- 30_encoding.md R74, R75, R82: the words that decode as Illegal. -/
def Obligations.ReservedWordsDecodeAsIllegal : Prop :=
  ∀ w : Word, (∃ x, decode w = .error x) ↔ IllegalWord w

/-- 30_encoding.md R72: one word of each group, written out. -/
def Obligations.SampleCommandWordsDecode : Prop :=
  Runs 0x10 .faddQ ∧ Runs 0x14 .fclassQ ∧ Runs 0x25 .fcvtQU256 ∧ Runs 0x2F .fcvtDQ ∧ Runs 0x43 .divU128 ∧
    Runs 0x4E .lowbitU128 ∧ Runs 0x55 .divremU256 ∧ Runs 0x5A .shlU256

/-- 20_memory.md R53 and 30_encoding.md R81: a command is read from the four bytes of its word, and the bytes after it are
left alone. -/
def Obligations.CommandsDecodeFromTheirFourBytes : Prop :=
  ∀ (i : Instr) (rest : List Byte), decodeBytes (bytesOfWord (encode i) ++ rest) = .ok (i, rest)

/-! ## Acceptance, drop, completion -/

/-- 10_state.md R37: a CMD write while BUSY = 0. -/
def Obligations.AcceptanceLatchesTheOperands : Prop :=
  ∀ (w : Word) (s : State), Accessible s → s.status.busy = false →
    1 ≤ latency s.params (w.extractLsb' 0 8) ∧
    windowWrite 0x040 4 w s = .next
      { s with
        la := s.opa
        lb := s.opb
        lcmd := w
        cnt := latency s.params (w.extractLsb' 0 8)
        status := { busy := true, done := false, drop := false, err := .none, op := w.extractLsb' 0 8 } }

/-- 10_state.md R38: a CMD write while BUSY = 1. -/
def Obligations.CommandWhileBusyIsDropped : Prop :=
  ∀ (w : Word) (s : State), Accessible s → s.status.busy = true →
    windowWrite 0x040 4 w s = .next
      { s with
        status := { busy := true, done := s.status.done, drop := true, err := s.status.err, op := s.status.op } }

/-- 10_state.md R39, R40: in the cycle in which CNT would reach 0 a step completes the command LCMD decodes to, whether the
cycle is the listed next move or the machine is left to its clock (log entry 2). -/
def Obligations.StepCompletesTheDecodedCommand : Prop :=
  ∀ (s : State) (i : Instr) (rest : List Input), s.resetLine = false → s.status.busy = true → s.cnt ≤ 1 →
    decode s.lcmd = .ok i →
    (s.inputs = .tick :: rest → step s = exec i { s with inputs := rest }) ∧
    (s.inputs = [] → step s = exec i s)

/-- Log entry 12: the state a command word is placed in runs that command in its very next step, on the operand registers. -/
def Obligations.PlacedCommandRunsInTheNextStep : Prop :=
  ∀ (s : State) (i : Instr),
    step (s.withFetchWord 32 (encode i).toNat) = exec i
      { s with
        la := s.opa
        lb := s.opb
        lcmd := encode i
        cnt := 1
        resetLine := false
        status := { busy := true, done := false, drop := false, err := .none, op := (encode i).extractLsb' 0 8 } }

/-- 30_encoding.md R74, R75 and 60_exceptions.md R231: an illegal word is accepted, counts its cycles down and completes with
IllegalCommand and zero results, changing nothing but RES, REM and STATUS at completion (and the model's own CNT and draw
counter, log entries 5 and 7). -/
def Obligations.IllegalWordRunsToIllegalCommand : Prop :=
  ∀ (w : Word) (s : State), IllegalWord w → Accessible s →
    (s.status.busy = false →
      windowWrite 0x040 4 w s = .next
        { s with
          la := s.opa
          lb := s.opb
          lcmd := w
          cnt := latency s.params (w.extractLsb' 0 8)
          status := { busy := true, done := false, drop := false, err := .none, op := w.extractLsb' 0 8 } }) ∧
    (s.status.busy = true → s.lcmd = w → 2 ≤ s.cnt → clockTick s = .next { s with cnt := s.cnt - 1 }) ∧
    (s.status.busy = true → s.lcmd = w → s.cnt ≤ 1 → Gives (clockTick s) (completed s 0 0 .illegalCommand))

/-- 10_state.md R20, R39, 70_reset_and_hazards.md R260, log entries 2 and 7: whatever moves are listed, a clock cycle of an idle
block changes nothing ("The execution unit never acts unless a command is in flight"), and one of a busy block before its
last cycle lowers CNT by 1 and changes nothing else, the command word legal or not. Left to its clock, a busy block keeps
everything but CNT for CNT - 1 cycles and completes in the next one. -/
def Obligations.CountdownEndsInCompletion : Prop :=
  ∀ s : State, s.resetLine = false →
    (s.status.busy = false → clockTick s = .next s) ∧
    (s.status.busy = true → 2 ≤ s.cnt → clockTick s = .next { s with cnt := s.cnt - 1 }) ∧
    ∀ k : Nat, s.status.busy = true → s.inputs = [] → 1 ≤ s.cnt →
      (k < s.cnt → Host.Core.run core k s = .next { s with cnt := s.cnt - k }) ∧
      Host.Core.run core s.cnt s = completeCommand { s with cnt := 1 }

/-- 10_state.md R24, R38, 70_reset_and_hazards.md R255: whatever moves of the host and of other masters come between
acceptance and completion, the command gives the results it would give at once (moves: log entries 1 and 2; a drawn result
is the same draw in both: log entry 5). `pre` is any list of moves that leaves the
reset input alone and lets the clock tick as often as the countdown asks before its last cycle. -/
def Obligations.ResultIsFixedAtAcceptance : Prop :=
  ∀ (s t : State) (pre rest : List Input), s.resetLine = false → s.status.busy = true →
    s.inputs = pre ++ .tick :: rest → pre.count .tick + 1 = s.cnt → (∀ b : Bool, Input.resetLine b ∉ pre) →
    Host.Core.run core (pre.length + 1) s = .next t →
    ∃ u : State, completeCommand s = .next u ∧ t.res = u.res ∧ t.rem = u.rem ∧ t.status.err = u.status.err ∧
      t.status.busy = false ∧ t.status.done = true ∧ t.status.op = s.status.op ∧ t.lcmd = s.lcmd ∧ t.la = s.la ∧
      t.lb = s.lb ∧ t.inputs = rest

/-- 10_state.md R45, R252: the invariant holds after reset. -/
def Obligations.InvariantHoldsAfterReset : Prop := Inv State.reset

/-- 10_state.md R27 to R32, R39: every step keeps the invariant: BUSY and DONE never hold together, ERR reads 0 and CNT is in
1 to LAT while a command is in flight, STATUS.OP is the OP of the last accepted word, while DONE = 1 RES, REM and ERR hold
the results of that command on the operands latched for it, and the host's variables stay in canonical form. -/
def Obligations.StepKeepsTheInvariant : Prop :=
  ∀ s t : State, Inv s → step s = .next t → Inv t

/-- 10_state.md R23: RES and REM are written only by the completion step and by reset. -/
def Obligations.ResultsChangeOnlyAtCompletionOrReset : Prop :=
  ∀ s t : State, step s = .next t → t.res ≠ s.res ∨ t.rem ≠ s.rem →
    (s.inputs = [] ∨ s.inputs.head? = some .tick) ∧
      (s.resetLine = true ∨ (s.status.busy = true ∧ s.cnt ≤ 1))

/-- 10_state.md R30: DROP is set by every CMD write while BUSY = 1, and cleared only by acceptance and by reset. -/
def Obligations.DropIsSticky : Prop :=
  (∀ (w : Word) (s : State), Accessible s → s.status.busy = true →
    ∃ t, windowWrite 0x040 4 w s = .next t ∧ t.status.drop = true) ∧
  (∀ (w : Word) (s : State), Accessible s → s.status.busy = false →
    ∃ t, windowWrite 0x040 4 w s = .next t ∧ t.status.drop = false) ∧
  (∀ s : State, s.resetLine = true → ∃ t, clockTick s = .next t ∧ t.status.drop = false) ∧
  ∀ s t : State, step s = .next t → s.status.drop = true → t.status.drop = false →
    (s.resetLine = true ∧ (s.inputs = [] ∨ s.inputs.head? = some .tick)) ∨
      (s.status.busy = false ∧
        t.status = { busy := true, done := false, drop := false, err := .none, op := t.lcmd.extractLsb' 0 8 })

/-- 00_scope.md R8, 44_host_access.md R193: no step changes the parameters or the host's program, and the state after reset
holds R8's default for each of its six policies. That State holds them and that its reset value has the defaults is the
model's choice (log entries 3, 4 and 11). -/
def Obligations.ParametersAndProgramAreFixed : Prop :=
  (∀ s t : State, step s = .next t → t.params = s.params ∧ t.prog = s.prog) ∧
  State.reset.params.zeroSumSign = .plus ∧ State.reset.params.srcSubnormal = .flush ∧
  State.reset.params.intToQRound = .trunc ∧ State.reset.params.fpToIntOor = .wrap ∧
  State.reset.params.shiftOversize = .zero ∧ State.reset.params.nanOut = .canonical

/-! ## The register window -/

/-- 10_state.md R24, R25: a write of OPA_i or OPB_i sets its 32 bits and changes nothing else, busy or not, and a read returns
them. -/
def Obligations.OperandWordWriteSetsItsBitsOnly : Prop :=
  ∀ (i : Nat) (w : Word) (s : State), i < 8 → Accessible s →
    (∃ v : Wide, windowWrite (wordOff 0x000 i) 4 w s = .next { s with opa := v } ∧
      ∀ k < 256, v.getLsbD k = if 32 * i ≤ k ∧ k < 32 * i + 32 then w.getLsbD (k - 32 * i) else s.opa.getLsbD k) ∧
    (∃ v : Wide, windowWrite (wordOff 0x020 i) 4 w s = .next { s with opb := v } ∧
      ∀ k < 256, v.getLsbD k = if 32 * i ≤ k ∧ k < 32 * i + 32 then w.getLsbD (k - 32 * i) else s.opb.getLsbD k) ∧
    windowRead (wordOff 0x000 i) 4 s = .ok (s.opa.extractLsb' (32 * i) 32) ∧
    windowRead (wordOff 0x020 i) 4 s = .ok (s.opb.extractLsb' (32 * i) 32)

/-- 10_state.md R21, R35 and 20_memory.md R51: what each offset of the window reads, and which ignore a write. -/
def Obligations.WindowFollowsTheRegisterMap : Prop :=
  ∀ (s : State) (w : Word), Accessible s →
    (∀ i < 8,
      windowRead (wordOff 0x000 i) 4 s = .ok (s.opa.extractLsb' (32 * i) 32) ∧
      windowRead (wordOff 0x020 i) 4 s = .ok (s.opb.extractLsb' (32 * i) 32) ∧
      windowRead (wordOff 0x080 i) 4 s = .ok (s.res.extractLsb' (32 * i) 32) ∧
      windowRead (wordOff 0x0A0 i) 4 s = .ok (s.rem.extractLsb' (32 * i) 32) ∧
      (∃ t, windowWrite (wordOff 0x000 i) 4 w s = .next t ∧ windowRead (wordOff 0x000 i) 4 t = .ok w) ∧
      (∃ t, windowWrite (wordOff 0x020 i) 4 w s = .next t ∧ windowRead (wordOff 0x020 i) 4 t = .ok w) ∧
      windowWrite (wordOff 0x080 i) 4 w s = .next s ∧
      windowWrite (wordOff 0x0A0 i) 4 w s = .next s) ∧
    windowRead 0x040 4 s = .ok 0 ∧ (∃ t, windowWrite 0x040 4 w s = .next t) ∧
    windowRead 0x044 4 s = .ok s.status.word ∧ windowWrite 0x044 4 w s = .next s ∧
    ∀ off : Offset, off.toNat % 4 = 0 →
      (0x048 ≤ off.toNat ∧ off.toNat ≤ 0x07C) ∨ (0x0C0 ≤ off.toNat ∧ off.toNat ≤ 0xFFC) →
      windowRead off 4 s = .ok 0 ∧ windowWrite off 4 w s = .next s

/-- 10_state.md R27, 60_exceptions.md R230: the STATUS word, field by field; its reserved bits read 0, and ERR is 0 for none, 1 for
DivideByZero, 2 for IllegalCommand and no other value. -/
def Obligations.StatusWordHoldsItsFields : Prop :=
  ErrCode.none.code = 0 ∧ ErrCode.divideByZero.code = 1 ∧ ErrCode.illegalCommand.code = 2 ∧
  ∀ t : Status, t.err.code.toNat ≤ 2 ∧
    t.word.toNat = t.busy.toNat + 2 * t.done.toNat + 4 * t.drop.toNat + 16 * t.err.code.toNat + 256 * t.op.toNat

/-- 20_memory.md R53, 70_reset_and_hazards.md R251: an access that is not 32 bits wide at a multiple of 4 is refused, and so is
every access before the first reset. That it is refused also while reset is asserted for the first time, before its first
clock edge (R250), is the model's choice (log entry 9). -/
def Obligations.UndefinedAccessesAreRefused : Prop :=
  ∀ (off : Offset) (n : Nat) (w : Word) (s : State),
    (s.wasReset = true → n ≠ 4 ∨ off.toNat % 4 ≠ 0 →
      windowWrite off n w s = .refused .undefinedAccess ∧ windowRead off n s = .error .undefinedAccess) ∧
    (s.wasReset = false →
      windowWrite off n w s = .refused .accessBeforeReset ∧ windowRead off n s = .error .accessBeforeReset)

/-- 20_memory.md R54: byte j of a register's image is its bits 8j+7:8j, at the register's offset plus j. -/
def Obligations.RegisterImagesAreLittleEndian : Prop :=
  ∀ (s : State) (j : Nat), j < 32 →
    windowByte s (BitVec.ofNat 12 (0x000 + j)) = s.opa.extractLsb' (8 * j) 8 ∧
    windowByte s (BitVec.ofNat 12 (0x020 + j)) = s.opb.extractLsb' (8 * j) 8 ∧
    windowByte s (BitVec.ofNat 12 (0x080 + j)) = s.res.extractLsb' (8 * j) 8 ∧
    windowByte s (BitVec.ofNat 12 (0x0A0 + j)) = s.rem.extractLsb' (8 * j) 8

/-- 20_memory.md R52, R54, 44_host_access.md R191: eight word writes, word i of the value to OPA_i, leave OPA holding the
value and nothing else changed. -/
def Obligations.EightWordWritesLoadAnOperand : Prop :=
  ∀ (s : State) (v : Wide),
    (List.range 8).foldl (fun t i => writeReg t (v.extractLsb' (32 * i) 32) (regAt (wordOff 0x000 i))) s = { s with opa := v } ∧
    (List.range 8).foldl (fun t i => writeReg t (v.extractLsb' (32 * i) 32) (regAt (wordOff 0x020 i))) s = { s with opb := v }

/-- 20_memory.md R50, 44_host_access.md R190: the window is the 4096 bytes from BASE, a multiple of 0x1000; an access of another
master at BASE + OFF, a write or a read, is the access at OFF, and a read changes nothing (20_memory.md R58). That an access
outside the window changes nothing is the model's choice (log entry 15). -/
def Obligations.BusAddressesSelectTheWindow : Prop :=
  ∀ (s : State) (off : Offset) (addr : Word) (n : Nat) (v : Word),
    (base s.params).toNat % 0x1000 = 0 ∧
    (address s.params off).toNat = (base s.params).toNat + off.toNat ∧
    busAccess (.write (address s.params off) n v) s = windowWrite off n v s ∧
    (∀ r : Refusal, windowRead off n s = .error r → busAccess (.read (address s.params off) n) s = .refused r) ∧
    (∀ w : Word, windowRead off n s = .ok w → busAccess (.read (address s.params off) n) s = .next s) ∧
    (addr.toNat < (base s.params).toNat ∨ (base s.params).toNat + 0x1000 ≤ addr.toNat →
      busAccess (.write addr n v) s = .next s ∧ busAccess (.read addr n) s = .next s)

/-- 70_reset_and_hazards.md R250: a clock edge with reset asserted clears the block whatever it was doing; while reset is
asserted writes are lost and reads return the reset values. The event makes the block usable (R251, R253), which the model
records in its own flag `wasReset`; before the first event accesses are refused by R251 (log entry 9). -/
def Obligations.ResetClearsTheBlock : Prop :=
  ∀ s : State, s.resetLine = true →
    clockTick s = .next
      { s with
        opa := 0
        opb := 0
        res := 0
        rem := 0
        la := 0
        lb := 0
        lcmd := 0
        cnt := 0
        status := { busy := false, done := false, drop := false, err := .none, op := 0 }
        wasReset := true } ∧
    ∀ (off : Offset) (w : Word), s.wasReset = true → off.toNat % 4 = 0 →
      windowWrite off 4 w s = .next s ∧ windowRead off 4 s = .ok 0

/-- 70_reset_and_hazards.md R252: the values after reset, and that every offset of the window then reads 0, CMD and the
reserved ones among them. -/
def Obligations.ResetValuesAreZero : Prop :=
  (State.reset.opa = 0 ∧ State.reset.opb = 0 ∧ State.reset.res = 0 ∧ State.reset.rem = 0 ∧ State.reset.la = 0 ∧
    State.reset.lb = 0 ∧ State.reset.lcmd = 0 ∧ State.reset.cnt = 0 ∧
    State.reset.status = { busy := false, done := false, drop := false, err := .none, op := 0 }) ∧
  ∀ off : Offset, off.toNat % 4 = 0 → windowRead off 4 State.reset = .ok 0

/-! ## The host -/

/-- 44_host_access.md R193: `wr` and `rd` perform one access and advance hpc by 1, `t <- expr` writes a variable, and a read
changes nothing of the block (20_memory.md R58). Variables and expressions: log entry 11. -/
def Obligations.HostStatementsAdvanceByOne : Prop :=
  ∀ (s : State) (off : Offset) (x : HostVar) (e : HostExpr) (v : Word), Accessible s → off.toNat % 4 = 0 →
    evalExpr s.vars e = some v →
    execStmt (.wr off e) s = .next { writeReg s v (regAt off) with hpc := s.hpc + 1 } ∧
    execStmt (.rd off x) s = .next { s with vars := setVar s.vars x (readReg s (regAt off)), hpc := s.hpc + 1 } ∧
    execStmt (.assign x e) s = .next { s with vars := setVar s.vars x v, hpc := s.hpc + 1 }

/-- 44_host_access.md R193: `bz` goes to the statement its label stands on when the variable is 0 and advances by 1 otherwise,
`bnz` the other way round. -/
def Obligations.HostBranchesFollowTheirVariable : Prop :=
  ∀ (s : State) (x : HostVar) (w : Word) (l : HostLabel) (k : Nat) (line : HostLine), getVar s.vars x = some w →
    s.prog[k]? = some line → line.label = some l → (HostProgram.labels s.prog).Nodup →
    execStmt (.bz x l) s = .next { s with hpc := if w = 0 then k else s.hpc + 1 } ∧
    execStmt (.bnz x l) s = .next { s with hpc := if w = 0 then s.hpc + 1 else k }

/-- 44_host_access.md R193: a variable reads as last written, and a statement that reads one no statement has written, alone or
anywhere in an expression, is a fault of the host program. The form of variables and expressions, and that the fault comes
before the refusal of the access of such a store (R53, R251), are the model's choice (log entry 11). -/
def Obligations.HostVariablesReadBack : Prop :=
  (∀ (l : List (HostVar × Word)) (x y : HostVar) (w : Word), varsSorted l = true →
    getVar (setVar l x w) y = (if y = x then some w else getVar l y) ∧ varsSorted (setVar l x w) = true) ∧
  ∀ (s : State) (x : HostVar), getVar s.vars x = none →
    (∀ (e : HostExpr) (off : Offset) (n : Nat) (y : HostVar), e.reads x = true →
      execStmt (.store off n e) s = .fault .unwrittenHostVariable ∧
      execStmt (.assign y e) s = .fault .unwrittenHostVariable) ∧
    ∀ l : HostLabel,
      execStmt (.bz x l) s = .fault .unwrittenHostVariable ∧ execStmt (.bnz x l) s = .fault .unwrittenHostVariable

/-- 10_state.md R20: a step carries out its listed move: for the host the statement at `hpc` (44_host_access.md R193), or
nothing once the program has ended; another master's access (60_exceptions.md R244); a level of the reset input and a clock
cycle (70_reset_and_hazards.md R250). The list of moves, and the clock cycle when none is listed, are the model's
(log entries 1 and 2); so is an ended host that does nothing (log entry 11). -/
def Obligations.StepCarriesOutTheListedMove : Prop :=
  ∀ (s : State) (rest : List Input),
    let s' : State := { s with inputs := rest }
    (s.inputs = .host :: rest →
      (∀ line : HostLine, s.prog[s.hpc]? = some line → step s = execStmt line.stmt s') ∧
      (s.prog.length ≤ s.hpc → step s = .next s')) ∧
    (∀ a : BusAccess, s.inputs = .bus a :: rest → step s = busAccess a s') ∧
    (∀ b : Bool, s.inputs = .resetLine b :: rest → step s = .next { s' with resetLine := b }) ∧
    (s.inputs = .tick :: rest → step s = clockTick s') ∧
    (s.inputs = [] → step s = clockTick s)

/-- 44_host_access.md R196 and 70_reset_and_hazards.md R256: what the host has read of STATUS since its last CMD write stays
true of the block, as long as no other master and no reset comes between; so a CMD write that keeps duty 1 without accepting
the drop sets no DROP, and a read of RES or REM that keeps duty 2 finds DONE = 1. That the launch premise stands for a read
of BUSY = 0 is the model's reading (log entry 23). -/
def Obligations.DutifulHostKnowsTheBlock : Prop :=
  (∀ s : State, launch s = true → HostView.launch.Holds s) ∧
  ∀ (v : HostView) (s t : State), s.resetLine = false →
    (s.inputs = [] ∨ s.inputs.head? = some .tick ∨ s.inputs.head? = some .host) → v.Holds s → step s = .next t →
    (v.next s).Holds t ∧
    (moveKeepsDuties false v s = true → t.status.drop = true → s.status.drop = true) ∧
    ∀ (off : Offset) (n : Nat) (x : HostVar), hostMove? s = some (.load off n x) →
      moveKeepsDuties false v s = true → Reg.isResult (regAt off) = true → s.status.done = true

/-- 44_host_access.md R196, duty 1, and 60_exceptions.md R237 (a host that keeps duty 1 never meets its case 1): along a
run from launch of a host that accepts no drop and keeps its duties, alone with the clock, no CMD write is ever dropped. The
schedule is the model's (log entries 1 and 2), and the launch premise stands for a read of BUSY = 0 (log entry 23). -/
def Obligations.DutifulRunDropsNoCommand : Prop :=
  ∀ (k : Nat) (s t : State), launch s = true → s.resetLine = false → s.status.drop = false →
    (∀ x ∈ s.inputs, x = .tick ∨ x = .host) → dutifulRun (fun _ => false) k HostView.launch s = true →
    Host.Core.run core k s = .next t → t.status.drop = false

/-! ## Every command -/

/-- 10_state.md R42, 60_exceptions.md R230: every command completes from every state, writing RES, REM and STATUS and nothing
else of the block (the model's CNT and draw counter apart); ERR is 0 or, for the six division commands alone, DivideByZero
with zero results; only DIVREM leaves a nonzero REM. -/
def Obligations.EveryCommandCompletes : Prop :=
  ∀ (i : Instr) (s : State), ∃ (res rem : Nat) (e : ErrCode), Gives (exec i s) (completed s res rem e) ∧
    res < 2 ^ 256 ∧ rem < 2 ^ 256 ∧
    (rem ≠ 0 → i = .divremU128 ∨ i = .divremU256) ∧
    (e ≠ .none → e = .divideByZero ∧ res = 0 ∧ rem = 0 ∧
      ((i = .divU128 ∨ i = .modU128 ∨ i = .divremU128) ∧ low 128 s.lb = 0 ∨
        (i = .divU256 ∨ i = .modU256 ∨ i = .divremU256) ∧ low 256 s.lb = 0))

/-- 10_state.md R43: bits above an operand's width are ignored and cause no error, and a command of one operand ignores all
of B. Where a result is drawn (NAN_OUT = ANY_NAN, FP_TO_INT_OOR = ANY) both runs take the same draw (log entry 5). -/
def Obligations.BitsAboveTheOperandAreIgnored : Prop :=
  ∀ (i : Instr) (s : State) (x y : Wide),
    low (operandBits i).1 x = low (operandBits i).1 s.la → low (operandBits i).2 y = low (operandBits i).2 s.lb →
    ∃ t u : State, exec i s = .next t ∧ exec i { s with la := x, lb := y } = .next u ∧
      u.res = t.res ∧ u.rem = t.rem ∧ u.status = t.status

/-! ## Binary128 arithmetic -/

/-- 40_fp_arith.md R96, with R98 and R100: the rounding function, for every positive rational `(n/d) * 2^k`. -/
def Obligations.RoundpackFollowsItsRule : Prop :=
  ∀ (s : Bool) (n d : Nat) (k : ℤ), 0 < n → 0 < d →
    Rounds s.toNat ((n : ℚ) / d * (2 : ℚ) ^ k) (roundpack s n d k)

/-- 40_fp_arith.md R97: the GRS rule on a discarded part f = r/d is rounding to nearest even. -/
def Obligations.GrsRuleIsRoundToNearestEven : Prop :=
  ∀ m r d : Nat, r < d →
    let f : ℚ := (r : ℚ) / d
    let g : ℤ := ⌊2 * f⌋
    let rd : ℤ := ⌊4 * f⌋ % 2
    ∃ st : ℤ, (st = 0 ∨ st = 1) ∧ (st = 1 ↔ ¬∃ z : ℤ, 4 * f = z) ∧
      (grsBits r d : ℤ) = 4 * g + 2 * rd + st ∧
      (5 ≤ grsBits r d ↔ 1 / 2 < f) ∧ (grsBits r d = 4 ↔ f = 1 / 2) ∧
      (roundUpGRS m r d = true ↔ (1 / 2 < f ∨ (f = 1 / 2 ∧ m % 2 = 1)))

/-- What rounding is for (derived from 40_fp_arith.md R94, R96): in the range of the Normal values the result is a Normal
value, and no Normal value is nearer. -/
def Obligations.RoundingGivesTheNearestNormal : Prop :=
  ∀ (n d : Nat) (k : ℤ), 0 < n → 0 < d →
    let v : ℚ := (n : ℚ) / d * (2 : ℚ) ^ k
    (2 : ℚ) ^ (-16382 : ℤ) ≤ v → v ≤ (2 - (2 : ℚ) ^ (-112 : ℤ)) * (2 : ℚ) ^ (16383 : ℤ) →
    ClassNormal (roundpack false n d k) ∧
      ∀ q : Quad, ClassNormal q → |val (roundpack false n d k) - v| ≤ |val q - v|

/-- 40_fp_arith.md R104 to R106: FADD.Q. -/
def Obligations.FaddGivesTheRoundedSum : Prop :=
  Runs 0x10 .faddQ ∧ ∀ s : State, ∃ r : Quad,
    Gives (exec .faddQ s) (completed s r.toNat 0 .none) ∧ IsSum s.params (quadIn s.la) (quadIn s.lb) r

/-- 40_fp_arith.md R107: FSUB.Q is the addition of b with its sign bit inverted. -/
def Obligations.FsubGivesTheRoundedDifference : Prop :=
  Runs 0x11 .fsubQ ∧ ∀ s : State, ∃ r : Quad,
    Gives (exec .fsubQ s) (completed s r.toNat 0 .none) ∧
      IsSum s.params (quadIn s.la) (quadIn s.lb ^^^ BitVec.ofNat 128 (2 ^ 127)) r

/-- 40_fp_arith.md R108, R109: FMUL.Q. -/
def Obligations.FmulGivesTheRoundedProduct : Prop :=
  Runs 0x12 .fmulQ ∧ ∀ s : State, ∃ r : Quad,
    Gives (exec .fmulQ s) (completed s r.toNat 0 .none) ∧ IsProduct s.params (quadIn s.la) (quadIn s.lb) r

/-- 40_fp_arith.md R110, R111: FDIV.Q. -/
def Obligations.FdivGivesTheRoundedQuotient : Prop :=
  Runs 0x13 .fdivQ ∧ ∀ s : State, ∃ r : Quad,
    Gives (exec .fdivQ s) (completed s r.toNat 0 .none) ∧ IsQuotient s.params (quadIn s.la) (quadIn s.lb) r

/-- 40_fp_arith.md R112: FCLASS.Q. -/
def Obligations.FclassGivesTheClassMask : Prop :=
  Runs 0x14 .fclassQ ∧ ∀ s : State,
    let a := quadIn s.la
    Gives (exec .fclassQ s) (completed s
      ((if ClassNaN a then 1 else 0) + (if ClassInf a then 2 else 0) + (if ClassZero a then 4 else 0) +
        (if ClassSubnormal a then 8 else 0) + 16 * signOf a) 0 .none)

/-- 40_fp_arith.md R101: no result of the four arithmetic commands is a subnormal pattern. -/
def Obligations.ArithmeticNeverGivesASubnormal : Prop :=
  ∀ (i : Instr) (s : State), i = .faddQ ∨ i = .fsubQ ∨ i = .fmulQ ∨ i = .fdivQ →
    ∃ t : State, exec i s = .next t ∧ ¬ClassSubnormal (quadIn t.res)

/-- 95_test_vectors.md 1.9 (4): FADD.Q and FMUL.Q are commutative bit for bit. The spec argues it from every NaN result being
QNAN, under the default parameters; this statement is over both values of NAN_OUT, and under ANY_NAN the equality is the
model's: both orders take the same draw, the one at the draw counter (DESIGN CHOICE, log entry 5). -/
def Obligations.AdditionAndMultiplicationCommute : Prop :=
  ∀ s : State, resultOf .faddQ s s.la s.lb = resultOf .faddQ s s.lb s.la ∧
    resultOf .fmulQ s s.la s.lb = resultOf .fmulQ s s.lb s.la ∧
    (resultOf .faddQ s s.la s.lb).isSome = true ∧ (resultOf .fmulQ s s.la s.lb).isSome = true

/-! ## Conversions -/

/-- 41_fp_conversion.md R131 to R137: integers to binary128. -/
def Obligations.IntegersConvertByIntpack : Prop :=
  Runs 0x20 .fcvtQW ∧ Runs 0x21 .fcvtQWU ∧ Runs 0x22 .fcvtQL ∧ Runs 0x23 .fcvtQLU ∧ Runs 0x24 .fcvtQU128 ∧
  Runs 0x25 .fcvtQU256 ∧ ∀ s : State,
    let signed (i : Instr) (n : Nat) : Prop := ∃ r : Quad, Gives (exec i s) (completed s r.toNat 0 .none) ∧
      if low n s.la < 2 ^ (n - 1) then IsIntpack s.params 0 (low n s.la) r
      else IsIntpack s.params 1 (2 ^ n - low n s.la) r
    let unsigned (i : Instr) (n : Nat) : Prop := ∃ r : Quad, Gives (exec i s) (completed s r.toNat 0 .none) ∧
      IsIntpack s.params 0 (low n s.la) r
    signed .fcvtQW 32 ∧ unsigned .fcvtQWU 32 ∧ signed .fcvtQL 64 ∧ unsigned .fcvtQLU 64 ∧ unsigned .fcvtQU128 128 ∧
      unsigned .fcvtQU256 256

/-- 41_fp_conversion.md R131: an integer of at most 113 bits converts exactly. -/
def Obligations.IntegersBelow113BitsConvertExactly : Prop :=
  ∀ (p : Params) (s : Bool) (m : Nat), 0 < m → m < 2 ^ 113 →
    ClassNormal (intpack p s m) ∧ sval (intpack p s m) = (-1) ^ s.toNat * (m : ℚ)

/-- 41_fp_conversion.md R138 to R140: float32 and float64 to binary128. -/
def Obligations.NarrowFloatsWiden : Prop :=
  Runs 0x26 .fcvtQS ∧ Runs 0x27 .fcvtQD ∧ ∀ s : State,
    (∃ r : Quad, Gives (exec .fcvtQS s) (completed s r.toNat 0 .none) ∧ IsFromNarrow s.params 8 23 127 (low 32 s.la) r) ∧
    ∃ r : Quad, Gives (exec .fcvtQD s) (completed s r.toNat 0 .none) ∧ IsFromNarrow s.params 11 52 1023 (low 64 s.la) r

/-- 41_fp_conversion.md R141 to R147 with 92_eei_decisions.md D26 and 93_implementation_defined.md row 7: binary128 to integers,
zero-extended into RES. A NaN and an Infinity give 0 under both policies, where R141's own line leaves them open under ANY
(log entry 6). -/
def Obligations.IntegersTruncateTowardZero : Prop :=
  Runs 0x28 .fcvtWQ ∧ Runs 0x29 .fcvtWUQ ∧ Runs 0x2A .fcvtLQ ∧ Runs 0x2B .fcvtLUQ ∧ Runs 0x2C .fcvtU128Q ∧
  Runs 0x2D .fcvtU256Q ∧ ∀ s : State,
    let gives (i : Instr) (n : Nat) (lo hi : ℤ) : Prop := ∃ r : Nat, r < 2 ^ n ∧
      Gives (exec i s) (completed s r 0 .none) ∧ IsToInt s.params n lo hi (quadIn s.la) r
    gives .fcvtWQ 32 (-2 ^ 31) (2 ^ 31) ∧ gives .fcvtWUQ 32 0 (2 ^ 32) ∧ gives .fcvtLQ 64 (-2 ^ 63) (2 ^ 63) ∧
      gives .fcvtLUQ 64 0 (2 ^ 64) ∧ gives .fcvtU128Q 128 0 (2 ^ 128) ∧ gives .fcvtU256Q 256 0 (2 ^ 256)

/-- 41_fp_conversion.md R148 to R150: binary128 to float32 and float64. -/
def Obligations.NarrowFloatsTruncate : Prop :=
  Runs 0x2E .fcvtSQ ∧ Runs 0x2F .fcvtDQ ∧ ∀ s : State,
    Gives (exec .fcvtSQ s) (completed s (toNarrow 8 23 127 (quadIn s.la)) 0 .none) ∧
    Gives (exec .fcvtDQ s) (completed s (toNarrow 11 52 1023 (quadIn s.la)) 0 .none)

/-- 41_fp_conversion.md R151: a float64 or float32 that is zero, infinite or normal comes back bit for bit. -/
def Obligations.NarrowFloatsRoundTrip : Prop :=
  ∀ s : State,
    (let d := low 64 s.la
     (d / 2 ^ 52 % 2 ^ 11 = 0 ∨ d / 2 ^ 52 % 2 ^ 11 = 2 ^ 11 - 1 → d % 2 ^ 52 = 0) →
       ∃ t u : State, exec .fcvtQD s = .next t ∧ exec .fcvtDQ { t with la := t.res } = .next u ∧ u.res.toNat = d) ∧
    (let d := low 32 s.la
     (d / 2 ^ 23 % 2 ^ 8 = 0 ∨ d / 2 ^ 23 % 2 ^ 8 = 2 ^ 8 - 1 → d % 2 ^ 23 = 0) →
       ∃ t u : State, exec .fcvtQS s = .next t ∧ exec .fcvtSQ { t with la := t.res } = .next u ∧ u.res.toNat = d)

/-! ## Integer arithmetic -/

/-- 42_integer.md R171 to R173: ADD, SUB and MUL wrap at W bits. -/
def Obligations.IntegerArithmeticWraps : Prop :=
  Runs 0x40 .addU128 ∧ Runs 0x41 .subU128 ∧ Runs 0x42 .mulU128 ∧ Runs 0x50 .addU256 ∧ Runs 0x51 .subU256 ∧
  Runs 0x52 .mulU256 ∧ ∀ s : State,
    let wraps (add sub mul : Instr) (W : Nat) : Prop :=
      let A := low W s.la
      let B := low W s.lb
      Gives (exec add s) (completed s ((A + B) % 2 ^ W) 0 .none) ∧
      Gives (exec sub s) (completed s ((A + (2 ^ W - B)) % 2 ^ W) 0 .none) ∧
      Gives (exec mul s) (completed s (A * B % 2 ^ W) 0 .none)
    wraps .addU128 .subU128 .mulU128 128 ∧ wraps .addU256 .subU256 .mulU256 256

/-- 42_integer.md R174 to R177: AND, OR, XOR and NOT on W bits. -/
def Obligations.BitwiseCommandsActBitByBit : Prop :=
  Runs 0x46 .andU128 ∧ Runs 0x47 .orU128 ∧ Runs 0x48 .xorU128 ∧ Runs 0x49 .notU128 ∧
  Runs 0x56 .andU256 ∧ Runs 0x57 .orU256 ∧ Runs 0x58 .xorU256 ∧ Runs 0x59 .notU256 ∧ ∀ s : State,
    let bits (i : Instr) (W : Nat) (f : Bool → Bool → Bool) : Prop := ∃ r : Nat,
      Gives (exec i s) (completed s r 0 .none) ∧ r < 2 ^ W ∧
        ∀ k < W, r.testBit k = f (s.la.getLsbD k) (s.lb.getLsbD k)
    bits .andU128 128 (· && ·) ∧ bits .orU128 128 (· || ·) ∧ bits .xorU128 128 xor ∧
    bits .notU128 128 (fun a _ => !a) ∧
    bits .andU256 256 (· && ·) ∧ bits .orU256 256 (· || ·) ∧ bits .xorU256 256 xor ∧ bits .notU256 256 (fun a _ => !a)

/-- 42_integer.md R178 to R180: logical shifts by the whole unsigned amount, oversize ones by `SHIFT_OVERSIZE`. -/
def Obligations.ShiftsFollowTheWholeAmount : Prop :=
  Runs 0x4A .shlU128 ∧ Runs 0x4B .shrU128 ∧ Runs 0x5A .shlU256 ∧ Runs 0x5B .shrU256 ∧ ∀ s : State,
    let shifts (left right : Instr) (W : Nat) : Prop :=
      let A := low W s.la
      let n := low W s.lb
      (n < W → Gives (exec left s) (completed s (A * 2 ^ n % 2 ^ W) 0 .none) ∧
        Gives (exec right s) (completed s (A / 2 ^ n) 0 .none)) ∧
      (W ≤ n → s.params.shiftOversize = .zero → Gives (exec left s) (completed s 0 0 .none) ∧
        Gives (exec right s) (completed s 0 0 .none)) ∧
      (W ≤ n → s.params.shiftOversize = .mask →
        Gives (exec left s) (completed s (A * 2 ^ (n % W) % 2 ^ W) 0 .none) ∧
        Gives (exec right s) (completed s (A / 2 ^ (n % W)) 0 .none))
    shifts .shlU128 .shrU128 128 ∧ shifts .shlU256 .shrU256 256

/-- 42_integer.md R181: CMPU. -/
def Obligations.CompareSetsEqualAndLess : Prop :=
  Runs 0x4C .cmpuU128 ∧ Runs 0x5C .cmpuU256 ∧ ∀ s : State,
    let compares (i : Instr) (W : Nat) : Prop :=
      Gives (exec i s) (completed s
        ((if low W s.la = low W s.lb then 1 else 0) + (if low W s.la < low W s.lb then 2 else 0)) 0 .none)
    compares .cmpuU128 128 ∧ compares .cmpuU256 256

/-- 42_integer.md R182, R183: HIGHBIT and LOWBIT. -/
def Obligations.BitQueriesFindTheBit : Prop :=
  Runs 0x4D .highbitU128 ∧ Runs 0x4E .lowbitU128 ∧ Runs 0x5D .highbitU256 ∧ Runs 0x5E .lowbitU256 ∧ ∀ s : State,
    let finds (high lowest : Instr) (W : Nat) : Prop :=
      let A := low W s.la
      (A = 0 → Gives (exec high s) (completed s (2 ^ W - 1) 0 .none) ∧
        Gives (exec lowest s) (completed s (2 ^ W - 1) 0 .none)) ∧
      (A ≠ 0 → ∃ h l : Nat, Gives (exec high s) (completed s h 0 .none) ∧ 2 ^ h ≤ A ∧ A < 2 ^ (h + 1) ∧
        Gives (exec lowest s) (completed s l 0 .none) ∧ A.testBit l = true ∧ ∀ j < l, A.testBit j = false)
    finds .highbitU128 .lowbitU128 128 ∧ finds .highbitU256 .lowbitU256 256

/-- 42_integer.md R184: the laws of integer arithmetic, for both widths. -/
def Obligations.IntegerLawsHold : Prop :=
  ∀ (s : State) (x y z : Wide),
    let laws (add sub mul not shl xor cmpu : Instr) (W : Nat) : Prop :=
      resultOf add s x y = resultOf add s y x ∧ resultOf mul s x y = resultOf mul s y x ∧
      ((resultOf add s x y).bind fun v => resultOf add s v z) = ((resultOf add s y z).bind fun v => resultOf add s x v) ∧
      ((resultOf mul s x y).bind fun v => resultOf mul s v z) = ((resultOf mul s y z).bind fun v => resultOf mul s x v) ∧
      resultOf sub s x y =
        ((resultOf not s y z).bind fun v => (resultOf add s v 1).bind fun u => resultOf add s x u) ∧
      resultOf shl s x 1 = resultOf add s x x ∧ resultOf xor s x x = some 0 ∧
      ((resultOf cmpu s x y = some 1 ∧ low W x = low W y) ∨ (resultOf cmpu s x y = some 2 ∧ low W x < low W y) ∨
        (resultOf cmpu s x y = some 0 ∧ low W y < low W x))
    laws .addU128 .subU128 .mulU128 .notU128 .shlU128 .xorU128 .cmpuU128 128 ∧
      laws .addU256 .subU256 .mulU256 .notU256 .shlU256 .xorU256 .cmpuU256 256

/-! ## Division -/

/-- 43_long_division.md R210 to R214: DIV, MOD and DIVREM, and the divide by zero. -/
def Obligations.DivisionIsExactOrDivideByZero : Prop :=
  Runs 0x43 .divU128 ∧ Runs 0x44 .modU128 ∧ Runs 0x45 .divremU128 ∧ Runs 0x53 .divU256 ∧ Runs 0x54 .modU256 ∧
  Runs 0x55 .divremU256 ∧ ∀ s : State,
    let divides (div mod divrem : Instr) (W : Nat) : Prop :=
      let A := low W s.la
      let B := low W s.lb
      Gives (exec div s) (dividedOr s B (A / B) 0) ∧ Gives (exec mod s) (dividedOr s B (A % B) 0) ∧
        Gives (exec divrem s) (dividedOr s B (A / B) (A % B))
    divides .divU128 .modU128 .divremU128 128 ∧ divides .divU256 .modU256 .divremU256 256

/-- 43_long_division.md R215: the division identity, and that DIVREM agrees with DIV and MOD. -/
def Obligations.DivisionIdentityHolds : Prop :=
  ∀ s : State,
    let identity (div mod divrem : Instr) (W : Nat) : Prop :=
      low W s.lb ≠ 0 → ∃ d m t : State,
        exec div s = .next d ∧ exec mod s = .next m ∧ exec divrem s = .next t ∧
        t.res.toNat * low W s.lb + t.rem.toNat = low W s.la ∧ t.rem.toNat < low W s.lb ∧
        d.res = t.res ∧ m.res = t.rem
    identity .divU128 .modU128 .divremU128 128 ∧ identity .divU256 .modU256 .divremU256 256

/-- 43_long_division.md R216, R217: one digit of Algorithm D, on a normalised divisor of n digits. The estimate after the
clamp is never less than the true digit; the loop stops after at most two corrections by its own test, since any more fuel
gives the same estimate and count; it then exceeds the true digit by at most 1; and after at most one add-back the digit and
what is left of the window are exact (the window as a number: log entry 19). -/
def Obligations.KnuthDigitIsExact : Prop :=
  ∀ n vn win : Nat, 2 ≤ n → 2 ^ 31 * digitBase ^ (n - 1) ≤ vn → vn < digitBase ^ n → win < vn * digitBase →
    let d := digitStep n vn win
    win / vn ≤ (estimate n vn win).1 ∧
    (∀ fuel : Nat, 2 ≤ fuel → correctedEstimate fuel n vn win = correctedEstimate 2 n vn win) ∧
    d.corrections = (correctedEstimate 2 n vn win).2 ∧ d.corrections ≤ 2 ∧
    win / vn ≤ (correctedEstimate 2 n vn win).1 ∧ (correctedEstimate 2 n vn win).1 ≤ win / vn + 1 ∧
    (d.addBack = true ↔ (correctedEstimate 2 n vn win).1 = win / vn + 1) ∧
    d.q = win / vn ∧ d.t = win % vn

/-- 43_long_division.md R216, R217: Algorithm D gives the quotient and the remainder of the division commands
(the window carried as a number: log entry 19). -/
def Obligations.KnuthAlgorithmDDividesExactly : Prop :=
  ∀ N u v : Nat, v ≠ 0 → u < digitBase ^ N → v < digitBase ^ N → divWords N u v = (u / v, u % v)
end

