-- ==== Sys2Proof/Laws/State.lean ====
section
/-! SUPPORT. Sys2Proof/Laws/State.lean: what each named update of State leaves in each field, and each update of STATUS in
each of its fields. -/

namespace Sys2Proof.Machine

/-! ## acceptCommand -/

@[simp] theorem acceptCommand_opa (w : Word) (s : State) : (acceptCommand w s).opa = s.opa := rfl
@[simp] theorem acceptCommand_opb (w : Word) (s : State) : (acceptCommand w s).opb = s.opb := rfl
@[simp] theorem acceptCommand_res (w : Word) (s : State) : (acceptCommand w s).res = s.res := rfl
@[simp] theorem acceptCommand_rem (w : Word) (s : State) : (acceptCommand w s).rem = s.rem := rfl
@[simp] theorem acceptCommand_status (w : Word) (s : State) : (acceptCommand w s).status = Status.accepted (w.extractLsb' 0 8) := rfl
@[simp] theorem acceptCommand_la (w : Word) (s : State) : (acceptCommand w s).la = s.opa := rfl
@[simp] theorem acceptCommand_lb (w : Word) (s : State) : (acceptCommand w s).lb = s.opb := rfl
@[simp] theorem acceptCommand_lcmd (w : Word) (s : State) : (acceptCommand w s).lcmd = w := rfl
@[simp] theorem acceptCommand_cnt (w : Word) (s : State) : (acceptCommand w s).cnt = latency s.params (w.extractLsb' 0 8) := rfl
@[simp] theorem acceptCommand_resetLine (w : Word) (s : State) : (acceptCommand w s).resetLine = s.resetLine := rfl
@[simp] theorem acceptCommand_wasReset (w : Word) (s : State) : (acceptCommand w s).wasReset = s.wasReset := rfl
@[simp] theorem acceptCommand_prog (w : Word) (s : State) : (acceptCommand w s).prog = s.prog := rfl
@[simp] theorem acceptCommand_hpc (w : Word) (s : State) : (acceptCommand w s).hpc = s.hpc := rfl
@[simp] theorem acceptCommand_vars (w : Word) (s : State) : (acceptCommand w s).vars = s.vars := rfl
@[simp] theorem acceptCommand_inputs (w : Word) (s : State) : (acceptCommand w s).inputs = s.inputs := rfl
@[simp] theorem acceptCommand_params (w : Word) (s : State) : (acceptCommand w s).params = s.params := rfl
@[simp] theorem acceptCommand_draws (w : Word) (s : State) : (acceptCommand w s).draws = s.draws := rfl

/-! ## dropCommand -/

@[simp] theorem dropCommand_opa (s : State) : (dropCommand s).opa = s.opa := rfl
@[simp] theorem dropCommand_opb (s : State) : (dropCommand s).opb = s.opb := rfl
@[simp] theorem dropCommand_res (s : State) : (dropCommand s).res = s.res := rfl
@[simp] theorem dropCommand_rem (s : State) : (dropCommand s).rem = s.rem := rfl
@[simp] theorem dropCommand_status (s : State) : (dropCommand s).status = s.status.dropped := rfl
@[simp] theorem dropCommand_la (s : State) : (dropCommand s).la = s.la := rfl
@[simp] theorem dropCommand_lb (s : State) : (dropCommand s).lb = s.lb := rfl
@[simp] theorem dropCommand_lcmd (s : State) : (dropCommand s).lcmd = s.lcmd := rfl
@[simp] theorem dropCommand_cnt (s : State) : (dropCommand s).cnt = s.cnt := rfl
@[simp] theorem dropCommand_resetLine (s : State) : (dropCommand s).resetLine = s.resetLine := rfl
@[simp] theorem dropCommand_wasReset (s : State) : (dropCommand s).wasReset = s.wasReset := rfl
@[simp] theorem dropCommand_prog (s : State) : (dropCommand s).prog = s.prog := rfl
@[simp] theorem dropCommand_hpc (s : State) : (dropCommand s).hpc = s.hpc := rfl
@[simp] theorem dropCommand_vars (s : State) : (dropCommand s).vars = s.vars := rfl
@[simp] theorem dropCommand_inputs (s : State) : (dropCommand s).inputs = s.inputs := rfl
@[simp] theorem dropCommand_params (s : State) : (dropCommand s).params = s.params := rfl
@[simp] theorem dropCommand_draws (s : State) : (dropCommand s).draws = s.draws := rfl

/-! ## complete -/

@[simp] theorem complete_opa (r q : Wide) (e : ErrCode) (s : State) : (complete r q e s).opa = s.opa := rfl
@[simp] theorem complete_opb (r q : Wide) (e : ErrCode) (s : State) : (complete r q e s).opb = s.opb := rfl
@[simp] theorem complete_res (r q : Wide) (e : ErrCode) (s : State) : (complete r q e s).res = r := rfl
@[simp] theorem complete_rem (r q : Wide) (e : ErrCode) (s : State) : (complete r q e s).rem = q := rfl
@[simp] theorem complete_status (r q : Wide) (e : ErrCode) (s : State) : (complete r q e s).status = s.status.completed e := rfl
@[simp] theorem complete_la (r q : Wide) (e : ErrCode) (s : State) : (complete r q e s).la = s.la := rfl
@[simp] theorem complete_lb (r q : Wide) (e : ErrCode) (s : State) : (complete r q e s).lb = s.lb := rfl
@[simp] theorem complete_lcmd (r q : Wide) (e : ErrCode) (s : State) : (complete r q e s).lcmd = s.lcmd := rfl
@[simp] theorem complete_cnt (r q : Wide) (e : ErrCode) (s : State) : (complete r q e s).cnt = 0 := rfl
@[simp] theorem complete_resetLine (r q : Wide) (e : ErrCode) (s : State) : (complete r q e s).resetLine = s.resetLine := rfl
@[simp] theorem complete_wasReset (r q : Wide) (e : ErrCode) (s : State) : (complete r q e s).wasReset = s.wasReset := rfl
@[simp] theorem complete_prog (r q : Wide) (e : ErrCode) (s : State) : (complete r q e s).prog = s.prog := rfl
@[simp] theorem complete_hpc (r q : Wide) (e : ErrCode) (s : State) : (complete r q e s).hpc = s.hpc := rfl
@[simp] theorem complete_vars (r q : Wide) (e : ErrCode) (s : State) : (complete r q e s).vars = s.vars := rfl
@[simp] theorem complete_inputs (r q : Wide) (e : ErrCode) (s : State) : (complete r q e s).inputs = s.inputs := rfl
@[simp] theorem complete_params (r q : Wide) (e : ErrCode) (s : State) : (complete r q e s).params = s.params := rfl
@[simp] theorem complete_draws (r q : Wide) (e : ErrCode) (s : State) : (complete r q e s).draws = s.draws + 1 := rfl

/-! ## resetBlock -/

@[simp] theorem resetBlock_opa (s : State) : (resetBlock s).opa = 0 := rfl
@[simp] theorem resetBlock_opb (s : State) : (resetBlock s).opb = 0 := rfl
@[simp] theorem resetBlock_res (s : State) : (resetBlock s).res = 0 := rfl
@[simp] theorem resetBlock_rem (s : State) : (resetBlock s).rem = 0 := rfl
@[simp] theorem resetBlock_status (s : State) : (resetBlock s).status = Status.reset := rfl
@[simp] theorem resetBlock_la (s : State) : (resetBlock s).la = 0 := rfl
@[simp] theorem resetBlock_lb (s : State) : (resetBlock s).lb = 0 := rfl
@[simp] theorem resetBlock_lcmd (s : State) : (resetBlock s).lcmd = 0 := rfl
@[simp] theorem resetBlock_cnt (s : State) : (resetBlock s).cnt = 0 := rfl
@[simp] theorem resetBlock_resetLine (s : State) : (resetBlock s).resetLine = s.resetLine := rfl
@[simp] theorem resetBlock_wasReset (s : State) : (resetBlock s).wasReset = true := rfl
@[simp] theorem resetBlock_prog (s : State) : (resetBlock s).prog = s.prog := rfl
@[simp] theorem resetBlock_hpc (s : State) : (resetBlock s).hpc = s.hpc := rfl
@[simp] theorem resetBlock_vars (s : State) : (resetBlock s).vars = s.vars := rfl
@[simp] theorem resetBlock_inputs (s : State) : (resetBlock s).inputs = s.inputs := rfl
@[simp] theorem resetBlock_params (s : State) : (resetBlock s).params = s.params := rfl
@[simp] theorem resetBlock_draws (s : State) : (resetBlock s).draws = s.draws := rfl

/-! ## advance -/

@[simp] theorem advance_opa (s : State) : (s.advance).opa = s.opa := rfl
@[simp] theorem advance_opb (s : State) : (s.advance).opb = s.opb := rfl
@[simp] theorem advance_res (s : State) : (s.advance).res = s.res := rfl
@[simp] theorem advance_rem (s : State) : (s.advance).rem = s.rem := rfl
@[simp] theorem advance_status (s : State) : (s.advance).status = s.status := rfl
@[simp] theorem advance_la (s : State) : (s.advance).la = s.la := rfl
@[simp] theorem advance_lb (s : State) : (s.advance).lb = s.lb := rfl
@[simp] theorem advance_lcmd (s : State) : (s.advance).lcmd = s.lcmd := rfl
@[simp] theorem advance_cnt (s : State) : (s.advance).cnt = s.cnt := rfl
@[simp] theorem advance_resetLine (s : State) : (s.advance).resetLine = s.resetLine := rfl
@[simp] theorem advance_wasReset (s : State) : (s.advance).wasReset = s.wasReset := rfl
@[simp] theorem advance_prog (s : State) : (s.advance).prog = s.prog := rfl
@[simp] theorem advance_hpc (s : State) : (s.advance).hpc = s.hpc + 1 := rfl
@[simp] theorem advance_vars (s : State) : (s.advance).vars = s.vars := rfl
@[simp] theorem advance_inputs (s : State) : (s.advance).inputs = s.inputs := rfl
@[simp] theorem advance_params (s : State) : (s.advance).params = s.params := rfl
@[simp] theorem advance_draws (s : State) : (s.advance).draws = s.draws := rfl

/-! ## STATUS -/

@[simp] theorem status_accepted_busy (op : BitVec 8) : (Status.accepted op).busy = true := rfl
@[simp] theorem status_accepted_done (op : BitVec 8) : (Status.accepted op).done = false := rfl
@[simp] theorem status_accepted_drop (op : BitVec 8) : (Status.accepted op).drop = false := rfl
@[simp] theorem status_accepted_err (op : BitVec 8) : (Status.accepted op).err = .none := rfl
@[simp] theorem status_accepted_op (op : BitVec 8) : (Status.accepted op).op = op := rfl
@[simp] theorem status_dropped_busy (t : Status) : (t.dropped).busy = t.busy := rfl
@[simp] theorem status_dropped_done (t : Status) : (t.dropped).done = t.done := rfl
@[simp] theorem status_dropped_drop (t : Status) : (t.dropped).drop = true := rfl
@[simp] theorem status_dropped_err (t : Status) : (t.dropped).err = t.err := rfl
@[simp] theorem status_dropped_op (t : Status) : (t.dropped).op = t.op := rfl
@[simp] theorem status_completed_busy (t : Status) (e : ErrCode) : (t.completed e).busy = false := rfl
@[simp] theorem status_completed_done (t : Status) (e : ErrCode) : (t.completed e).done = true := rfl
@[simp] theorem status_completed_drop (t : Status) (e : ErrCode) : (t.completed e).drop = t.drop := rfl
@[simp] theorem status_completed_err (t : Status) (e : ErrCode) : (t.completed e).err = e := rfl
@[simp] theorem status_completed_op (t : Status) (e : ErrCode) : (t.completed e).op = t.op := rfl
@[simp] theorem status_reset_busy  : (Status.reset).busy = false := rfl
@[simp] theorem status_reset_done  : (Status.reset).done = false := rfl
@[simp] theorem status_reset_drop  : (Status.reset).drop = false := rfl
@[simp] theorem status_reset_err  : (Status.reset).err = .none := rfl
@[simp] theorem status_reset_op  : (Status.reset).op = 0 := rfl

/-! ## The STATUS word -/

/-- Bit 0 of the STATUS word is BUSY (10_state.md R27). -/
theorem status_word_bit0 (t : Status) : t.word.getLsbD 0 = t.busy := by
  simp only [Status.word, BitVec.getLsbD_append]
  simp

/-- Bit 1 of the STATUS word is DONE (10_state.md R27). -/
theorem status_word_bit1 (t : Status) : t.word.getLsbD 1 = t.done := by
  simp only [Status.word, BitVec.getLsbD_append]
  simp

end Sys2Proof.Machine
end

