-- ==== Sys2Proof/Laws/Ops.lean ====
section
/-! SUPPORT. Sys2Proof/Laws/Ops.lean: one spec lemma for each shared operation of Machine/: what it answers and all it can do. -/

namespace Sys2Proof.Machine

/-! ## Completion -/

@[simp] theorem completeWith_eq {n : Nat} (r : BitVec n) (s : State) :
    completeWith r s = complete (place r) 0 .none s := rfl

@[simp] theorem raiseError_eq (e : ErrCode) (s : State) : raiseError e s = complete 0 0 e s := rfl

theorem latency_pos (p : Params) (op : BitVec 8) : 1 ≤ latency p op := Nat.le_add_left _ _

/-- A division command either takes DivideByZero, when the divisor is 0, or completes with its two results. -/
theorem divide_cases {W : Nat} (a b : BitVec W) (f g : BitVec W → BitVec W → BitVec W) (s : State) :
    (b = 0 ∧ divide a b f g s = complete 0 0 .divideByZero s) ∨
      (b ≠ 0 ∧ divide a b f g s = complete (place (f (a / b) (a % b))) (place (g (a / b) (a % b))) .none s) := by
  unfold divide
  by_cases h : b = 0
  · exact .inl ⟨h, if_pos h⟩
  · exact .inr ⟨h, if_neg h⟩

/-- Every command answers a next state, and that state is a completion of the state it ran in. -/
theorem exec_completes (i : Instr) (s : State) :
    ∃ (r q : Wide) (e : ErrCode), e ≠ .illegalCommand ∧ exec i s = .next (complete r q e s) := by
  have hdiv : ∀ {W : Nat} (a b : BitVec W) (f g : BitVec W → BitVec W → BitVec W),
      ∃ (r q : Wide) (e : ErrCode), e ≠ .illegalCommand ∧
        Host.Outcome.next (φ := Fault) (ρ := Refusal) (divide a b f g s) = .next (complete r q e s) := by
    intro W a b f g
    rcases divide_cases a b f g s with ⟨-, h⟩ | ⟨-, h⟩ <;> rw [h]
    · exact ⟨_, _, .divideByZero, by decide, rfl⟩
    · exact ⟨_, _, .none, by decide, rfl⟩
  cases i
  case divU128 | modU128 | divremU128 | divU256 | modU256 | divremU256 => exact hdiv _ _ _ _
  all_goals exact ⟨_, _, .none, by decide, rfl⟩

/-- `Exec` "is a pure function of its arguments" (10_state.md R40): the results of a command depend on LA, LB, the parameters
and the draw alone. -/
theorem exec_reads (i : Instr) (s t : State) (ha : t.la = s.la) (hb : t.lb = s.lb) (hp : t.params = s.params)
    (hd : t.draws = s.draws) :
    ∃ (r q : Wide) (e : ErrCode), exec i s = .next (complete r q e s) ∧ exec i t = .next (complete r q e t) := by
  have ht : t = { t with la := s.la, lb := s.lb, params := s.params, draws := s.draws } := by rw [← ha, ← hb, ← hp, ← hd]
  have hdiv : ∀ {W : Nat} (a b a' b' : BitVec W) (f g : BitVec W → BitVec W → BitVec W), a' = a → b' = b →
      ∃ (r q : Wide) (e : ErrCode),
        Host.Outcome.next (φ := Fault) (ρ := Refusal) (divide a b f g s) = .next (complete r q e s) ∧
        Host.Outcome.next (φ := Fault) (ρ := Refusal) (divide a' b' f g t) = .next (complete r q e t) := by
    intro W a b a' b' f g ea eb
    rw [ea, eb]
    rcases divide_cases a b f g s with ⟨h, h1⟩ | ⟨h, h1⟩ <;> rcases divide_cases a b f g t with ⟨h', h2⟩ | ⟨h', h2⟩
    · exact ⟨_, _, _, by rw [h1], by rw [h2]⟩
    · exact absurd h h'
    · exact absurd h' h
    · exact ⟨_, _, _, by rw [h1], by rw [h2]⟩
  cases i
  case divU128 | modU128 | divremU128 =>
    exact hdiv s.a128 s.b128 t.a128 t.b128 _ _ (by rw [State.a128, ha]; rfl) (by rw [State.b128, hb]; rfl)
  case divU256 | modU256 | divremU256 => exact hdiv s.a256 s.b256 t.a256 t.b256 _ _ ha hb
  all_goals exact ⟨_, _, _, rfl, by rw [ht]; rfl⟩

/-- The completion step always answers a next state that is a completion. -/
theorem completeCommand_completes (s : State) :
    ∃ (r q : Wide) (e : ErrCode), completeCommand s = .next (complete r q e s) := by
  unfold completeCommand
  split
  · obtain ⟨r, q, e, -, h⟩ := exec_completes ‹_› s
    exact ⟨r, q, e, h⟩
  · exact ⟨_, _, _, rfl⟩

/-! ## The reference algorithm -/

/-- The correction loop of R216 takes at most two turns under a normalised divisor: its own test then fails. -/
theorem correct_stops {vTop : Nat} (hv : 2 ^ 31 ≤ vTop) (vNext uNext qhat rhat k : Nat) :
    correct vTop vNext uNext (k + 2) qhat rhat = correct vTop vNext uNext 2 qhat rhat := by
  have h (q : Nat) : ∀ f, correct vTop vNext uNext f q (rhat + vTop + vTop) = (q, 0) := by
    rintro (- | f)
    · rfl
    · exact if_neg (by unfold digitBase; omega)
  simp only [correct, h]

/-! ## The window -/

theorem definedAccess_iff (off : Offset) (n : Nat) : definedAccess off n = true ↔ n = 4 ∧ off.toNat % 4 = 0 := by
  simp [definedAccess, ← BitVec.toNat_inj]

theorem accessRefusal_eq_none (s : State) (off : Offset) (n : Nat) :
    accessRefusal s off n = none ↔ s.wasReset = true ∧ n = 4 ∧ off.toNat % 4 = 0 := by
  rw [← definedAccess_iff]
  unfold accessRefusal
  cases s.wasReset <;> cases definedAccess off n <;> simp

/-- A write answers a next state exactly when no refusal applies, and then writes the register at its offset unless reset is
asserted. -/
theorem windowWrite_next {off : Offset} {n : Nat} {w : Word} {s t : State} (h : windowWrite off n w s = .next t) :
    s.wasReset = true ∧ n = 4 ∧ off.toNat % 4 = 0 ∧ t = if s.resetLine then s else writeReg s w (regAt off) := by
  unfold windowWrite at h
  split at h
  · cases h
  · rename_i hr
    rw [accessRefusal_eq_none] at hr
    cases h
    exact ⟨hr.1, hr.2.1, hr.2.2, rfl⟩

theorem windowWrite_of_accessible {off : Offset} {w : Word} {s : State} (hr : s.wasReset = true)
    (hl : s.resetLine = false) (ho : off.toNat % 4 = 0) :
    windowWrite off 4 w s = .next (writeReg s w (regAt off)) := by
  unfold windowWrite
  rw [(accessRefusal_eq_none s off 4).2 ⟨hr, rfl, ho⟩]
  simp [hl]

theorem windowRead_of_accessible {off : Offset} {s : State} (hr : s.wasReset = true) (hl : s.resetLine = false)
    (ho : off.toNat % 4 = 0) : windowRead off 4 s = .ok (readReg s (regAt off)) := by
  unfold windowRead
  rw [(accessRefusal_eq_none s off 4).2 ⟨hr, rfl, ho⟩]
  simp [hl]

/-- A read does not depend on the moves to come. -/
@[simp] theorem windowRead_inputs (off : Offset) (n : Nat) (s : State) (r : List Input) :
    windowRead off n { s with inputs := r } = windowRead off n s := by
  have h : ∀ q : Reg, readReg { s with inputs := r } q = readReg s q := fun q => by cases q <;> rfl
  have h' : ∀ q : Reg, readReg (resetBlock { s with inputs := r }) q = readReg (resetBlock s) q := fun q => by
    cases q <;> rfl
  have ha : accessRefusal { s with inputs := r } off n = accessRefusal s off n := rfl
  unfold windowRead
  rw [ha]
  by_cases hl : s.resetLine = true
  · simp only [if_pos hl, h']
  · simp only [if_neg hl, h]

/-- What a register write can do to the machine. -/
theorem writeReg_cases (s : State) (w : Word) (r : Reg) :
    (∃ v, writeReg s w r = { s with opa := v }) ∨ (∃ v, writeReg s w r = { s with opb := v }) ∨
      (r = .cmd ∧ s.status.busy = false ∧ writeReg s w r = acceptCommand w s) ∨
      (r = .cmd ∧ s.status.busy = true ∧ writeReg s w r = dropCommand s) ∨ writeReg s w r = s := by
  cases r with
  | opa i => exact .inl ⟨_, rfl⟩
  | opb i => exact .inr (.inl ⟨_, rfl⟩)
  | cmd =>
    by_cases h : s.status.busy = true
    · exact .inr (.inr (.inr (.inl ⟨rfl, h, by simp [writeReg, writeCmd, h]⟩)))
    · exact .inr (.inr (.inl ⟨rfl, by simpa using h, by simp [writeReg, writeCmd, h]⟩))
  | status | res i | rem i | reserved => exact .inr (.inr (.inr (.inr rfl)))

/-- `BASE + off` is in the window, and the block decodes it to off. -/
theorem address_selects (p : Params) (off : Offset) : selected p (address p off) = true ∧ offsetOf (address p off) = off := by
  have hb : (base p).toNat = p.basePage.toNat * 4096 := by
    unfold base
    rw [BitVec.toNat_append, ← Nat.shiftLeft_add_eq_or_of_lt (by simp)]
    simp [Nat.shiftLeft_eq]
  have ha : (address p off).toNat = p.basePage.toNat * 4096 + off.toNat := by
    simp only [address, BitVec.toNat_add, BitVec.toNat_setWidth, hb]
    omega
  refine ⟨?_, BitVec.eq_of_toNat_eq (by simp [offsetOf, ha]; omega)⟩
  simp only [selected, beq_iff_eq, ← BitVec.toNat_inj, BitVec.extractLsb'_toNat, Nat.shiftRight_eq_div_pow, ha]
  omega

/-- What another master's access can do: nothing, or the write of a register. -/
theorem busAccess_next {a : BusAccess} {s t : State} (h : busAccess a s = .next t) :
    t = s ∨ (s.resetLine = false ∧ ∃ w r, t = writeReg s w r) := by
  cases a with
  | write addr n v =>
    simp only [busAccess] at h
    split at h
    · obtain ⟨-, -, -, ht⟩ := windowWrite_next h
      cases hl : s.resetLine
      · exact .inr ⟨rfl, _, _, by simpa [hl] using ht⟩
      · exact .inl (by simpa [hl] using ht)
    · cases h; exact .inl rfl
  | read addr n =>
    simp only [busAccess] at h
    split at h
    · split at h
      · cases h
      · cases h; exact .inl rfl
    · cases h; exact .inl rfl

/-! ## The host's variables -/

theorem varsSorted_iff (l : List (HostVar × Word)) :
    varsSorted l = true ↔ l.Pairwise fun a b => a.1 < b.1 := by simp [varsSorted]

/-- A variable of the written list is an old one or the new one. -/
theorem mem_setVar {l : List (HostVar × Word)} {x : HostVar} {w : Word} {p : HostVar × Word} (h : p ∈ setVar l x w) :
    p ∈ l ∨ p = (x, w) := by
  induction l with
  | nil => simpa [setVar] using h
  | cons q l ih =>
    obtain ⟨y, v⟩ := q
    simp only [setVar] at h
    split_ifs at h <;> simp only [List.mem_cons] at h ⊢
    · tauto
    · tauto
    · rcases h with h | h
      · tauto
      · rcases ih h with h | h <;> tauto

/-- Writing a variable keeps the canonical form of the variable list. -/
theorem setVar_sorted {l : List (HostVar × Word)} (x : HostVar) (w : Word) (h : varsSorted l = true) :
    varsSorted (setVar l x w) = true := by
  rw [varsSorted_iff] at h ⊢
  induction l with
  | nil => simp [setVar]
  | cons q l ih =>
    obtain ⟨y, v⟩ := q
    rw [List.pairwise_cons] at h
    simp only [setVar]
    split_ifs with h1 h2
    · refine List.pairwise_cons.2 ⟨fun p hp => ?_, List.pairwise_cons.2 h⟩
      rcases List.mem_cons.1 hp with rfl | hp
      · exact h1
      · exact lt_trans h1 (h.1 p hp)
    · subst h2
      exact List.pairwise_cons.2 h
    · refine List.pairwise_cons.2 ⟨fun p hp => ?_, ih h.2⟩
      rcases mem_setVar hp with hp | rfl
      · exact h.1 p hp
      · exact lt_of_le_of_ne (not_lt.1 h1) (Ne.symm h2)

/-- Host arithmetic has no value when it reads a variable no statement has written. -/
theorem evalExpr_eq_none_of_reads {l : List (HostVar × Word)} {x : HostVar} (h : getVar l x = none) :
    ∀ {e : HostExpr}, e.reads x = true → evalExpr l e = none := by
  intro e he
  induction e with
  | lit w => simp [HostExpr.reads] at he
  | var y => simp only [HostExpr.reads, beq_iff_eq] at he; subst he; exact h
  | not a ih | shl a n ih | shr a n ih => simp only [evalExpr, ih he, Option.map_none]
  | and a b iha ihb | or a b iha ihb | xor a b iha ihb | add a b iha ihb | sub a b iha ihb =>
    simp only [HostExpr.reads, Bool.or_eq_true] at he
    rcases he with he | he
    · simp only [evalExpr, iha he, Option.bind_none]
    · simp only [evalExpr, ihb he, Option.map_none, Option.bind_fun_none]

/-! ## Steps -/

/-- What a host branch can do. -/
theorem branch_next {b : Bool} {l : HostLabel} {s t : State} (h : branch b l s = .next t) :
    ∃ k, t = { s with hpc := k } := by
  unfold branch at h
  split at h
  · split at h
    · cases h; exact ⟨_, rfl⟩
    · cases h
  · cases h; exact ⟨_, rfl⟩

/-- What a host statement can do: it writes a variable, or a register of a block not held in reset, and sets hpc. -/
theorem execStmt_next {c : HostStmt} {s t : State} (h : execStmt c s = .next t) :
    (∃ k, t = { s with hpc := k }) ∨ (∃ x w k, t = { s with vars := setVar s.vars x w, hpc := k }) ∨
      (s.resetLine = false ∧ ∃ w r, t = (writeReg s w r).advance) := by
  cases c with
  | store off n e =>
    simp only [execStmt] at h
    split at h
    · cases h
    · split at h
      · rename_i hw
        obtain ⟨-, -, -, ht⟩ := windowWrite_next hw
        cases h
        rcases Bool.eq_false_or_eq_true s.resetLine with hl | hl
        · exact .inl ⟨s.hpc + 1, by rw [ht, if_pos hl]; rfl⟩
        · exact .inr (.inr ⟨hl, _, _, by rw [ht, hl, if_neg Bool.false_ne_true]⟩)
      · cases h
      · cases h
  | load off n x =>
    simp only [execStmt] at h
    split at h
    · cases h
    · cases h; exact .inr (.inl ⟨_, _, _, rfl⟩)
  | assign x e =>
    simp only [execStmt] at h
    split at h
    · cases h
    · cases h; exact .inr (.inl ⟨_, _, _, rfl⟩)
  | bz x l | bnz x l =>
    simp only [execStmt] at h
    split at h
    · cases h
    · exact .inl (branch_next h)

/-- Everything one clock cycle can do. -/
theorem clockTick_cases (s : State) :
    (s.resetLine = true ∧ clockTick s = .next (resetBlock s)) ∨
      (s.resetLine = false ∧ s.status.busy = true ∧ s.cnt ≤ 1 ∧ clockTick s = completeCommand s) ∨
      (s.resetLine = false ∧ s.status.busy = true ∧ 2 ≤ s.cnt ∧ clockTick s = .next { s with cnt := s.cnt - 1 }) ∨
      (s.resetLine = false ∧ s.status.busy = false ∧ clockTick s = .next s) := by
  unfold clockTick due
  cases s.resetLine <;> cases s.status.busy <;> by_cases h : s.cnt ≤ 1 <;> simp [h]
  omega

/-- The next move, and the state it acts on. -/
theorem takeInput_spec (s : State) : ∃ rest, (takeInput s).2 = { s with inputs := rest } ∧
    (((takeInput s).1 = .tick ∧ s.inputs = [] ∧ rest = []) ∨ s.inputs = (takeInput s).1 :: rest) := by
  unfold takeInput
  cases h : s.inputs with
  | nil => exact ⟨[], by simp only; rw [← h], .inl ⟨rfl, rfl, rfl⟩⟩
  | cons x rest => exact ⟨rest, rfl, .inr rfl⟩

/-- A step with a move listed carries that move out on the state without it. -/
theorem step_listed {s : State} {x : Input} {rest : List Input} (h : s.inputs = x :: rest) :
    step s = applyInput x { s with inputs := rest } := by
  unfold step takeInput
  rw [h]

/-- A step with no move listed is a clock cycle (log entry 2). -/
theorem step_unlisted {s : State} (h : s.inputs = []) : step s = clockTick s := by
  unfold step takeInput
  rw [h]
  rfl

/-- Everything a step that answers a next state can do, on the state with its move taken off the list. -/
theorem step_cases {s t : State} (h : step s = .next t) :
    ∃ rest, let s' : State := { s with inputs := rest }
      ((s.inputs = [] ∨ s.inputs = .tick :: rest) ∧ clockTick s' = .next t) ∨
      (s.inputs = .host :: rest ∧ (t = s' ∨ ∃ c, execStmt c s' = .next t)) ∨
      (∃ a, s.inputs = .bus a :: rest ∧ busAccess a s' = .next t) ∨
      (∃ b, s.inputs = .resetLine b :: rest ∧ t = { s' with resetLine := b }) := by
  obtain ⟨rest, h2, h1⟩ := takeInput_spec s
  refine ⟨rest, ?_⟩
  unfold step at h
  rw [h2] at h
  generalize (takeInput s).1 = x at h h1
  cases x with
  | tick => exact .inl ⟨by rcases h1 with h1 | h1 <;> simp [h1], h⟩
  | host =>
    refine .inr (.inl ⟨by simpa using h1, ?_⟩)
    simp only [applyInput, hostStep] at h
    split at h
    · exact .inr ⟨_, h⟩
    · cases h; exact .inl rfl
  | bus a => exact .inr (.inr (.inl ⟨a, by simpa using h1, h⟩))
  | resetLine b =>
    refine .inr (.inr (.inr ⟨b, by simpa using h1, ?_⟩))
    simp only [applyInput] at h
    cases h; rfl

/-! ## Runs -/

/-- A run goes on from the state its first step gives. -/
theorem run_next {s t : State} (k : Nat) (h : step s = .next t) :
    Host.Core.run core (k + 1) s = Host.Core.run core k t := by
  have h' : core.step s = .next t := h
  simp only [Host.Core.run, h']

/-- A run that ends in a next state took a first step that gave one. -/
theorem run_succ_next {s t : State} {k : Nat} (h : Host.Core.run core (k + 1) s = .next t) :
    ∃ u, step s = .next u ∧ Host.Core.run core k u = .next t := by
  cases hs : step s with
  | next u => exact ⟨u, rfl, by rw [← run_next k hs]; exact h⟩
  | fault r =>
    have h' : core.step s = .fault r := hs
    simp [Host.Core.run, h'] at h
  | refused r =>
    have h' : core.step s = .refused r := hs
    simp [Host.Core.run, h'] at h

end Sys2Proof.Machine
end

