-- ==== Sys2Proof/Laws/PerInstr.lean ====
section
/-! SUPPORT. Sys2Proof/Laws/PerInstr.lean: what holds of every command as syntax, one lemma per constructor. -/

namespace Sys2Proof.Laws.WordFormat

/-- The command word of a command has bits 31:8 zero (30_encoding.md R70, R75), its OP fits one of R71's groups, and it decodes
to the command. -/
def Statement (i : Instr) : Prop :=
  (encode i).extractLsb' 8 24 = 0#24 ∧ legalWord (encode i) = true ∧ decode (encode i) = .ok i ∧ i.wf = true

theorem faddQ : Statement .faddQ := ⟨rfl, rfl, rfl, rfl⟩
theorem fsubQ : Statement .fsubQ := ⟨rfl, rfl, rfl, rfl⟩
theorem fmulQ : Statement .fmulQ := ⟨rfl, rfl, rfl, rfl⟩
theorem fdivQ : Statement .fdivQ := ⟨rfl, rfl, rfl, rfl⟩
theorem fclassQ : Statement .fclassQ := ⟨rfl, rfl, rfl, rfl⟩
theorem fcvtQW : Statement .fcvtQW := ⟨rfl, rfl, rfl, rfl⟩
theorem fcvtQWU : Statement .fcvtQWU := ⟨rfl, rfl, rfl, rfl⟩
theorem fcvtQL : Statement .fcvtQL := ⟨rfl, rfl, rfl, rfl⟩
theorem fcvtQLU : Statement .fcvtQLU := ⟨rfl, rfl, rfl, rfl⟩
theorem fcvtQU128 : Statement .fcvtQU128 := ⟨rfl, rfl, rfl, rfl⟩
theorem fcvtQU256 : Statement .fcvtQU256 := ⟨rfl, rfl, rfl, rfl⟩
theorem fcvtQS : Statement .fcvtQS := ⟨rfl, rfl, rfl, rfl⟩
theorem fcvtQD : Statement .fcvtQD := ⟨rfl, rfl, rfl, rfl⟩
theorem fcvtWQ : Statement .fcvtWQ := ⟨rfl, rfl, rfl, rfl⟩
theorem fcvtWUQ : Statement .fcvtWUQ := ⟨rfl, rfl, rfl, rfl⟩
theorem fcvtLQ : Statement .fcvtLQ := ⟨rfl, rfl, rfl, rfl⟩
theorem fcvtLUQ : Statement .fcvtLUQ := ⟨rfl, rfl, rfl, rfl⟩
theorem fcvtU128Q : Statement .fcvtU128Q := ⟨rfl, rfl, rfl, rfl⟩
theorem fcvtU256Q : Statement .fcvtU256Q := ⟨rfl, rfl, rfl, rfl⟩
theorem fcvtSQ : Statement .fcvtSQ := ⟨rfl, rfl, rfl, rfl⟩
theorem fcvtDQ : Statement .fcvtDQ := ⟨rfl, rfl, rfl, rfl⟩
theorem addU128 : Statement .addU128 := ⟨rfl, rfl, rfl, rfl⟩
theorem subU128 : Statement .subU128 := ⟨rfl, rfl, rfl, rfl⟩
theorem mulU128 : Statement .mulU128 := ⟨rfl, rfl, rfl, rfl⟩
theorem divU128 : Statement .divU128 := ⟨rfl, rfl, rfl, rfl⟩
theorem modU128 : Statement .modU128 := ⟨rfl, rfl, rfl, rfl⟩
theorem divremU128 : Statement .divremU128 := ⟨rfl, rfl, rfl, rfl⟩
theorem andU128 : Statement .andU128 := ⟨rfl, rfl, rfl, rfl⟩
theorem orU128 : Statement .orU128 := ⟨rfl, rfl, rfl, rfl⟩
theorem xorU128 : Statement .xorU128 := ⟨rfl, rfl, rfl, rfl⟩
theorem notU128 : Statement .notU128 := ⟨rfl, rfl, rfl, rfl⟩
theorem shlU128 : Statement .shlU128 := ⟨rfl, rfl, rfl, rfl⟩
theorem shrU128 : Statement .shrU128 := ⟨rfl, rfl, rfl, rfl⟩
theorem cmpuU128 : Statement .cmpuU128 := ⟨rfl, rfl, rfl, rfl⟩
theorem highbitU128 : Statement .highbitU128 := ⟨rfl, rfl, rfl, rfl⟩
theorem lowbitU128 : Statement .lowbitU128 := ⟨rfl, rfl, rfl, rfl⟩
theorem addU256 : Statement .addU256 := ⟨rfl, rfl, rfl, rfl⟩
theorem subU256 : Statement .subU256 := ⟨rfl, rfl, rfl, rfl⟩
theorem mulU256 : Statement .mulU256 := ⟨rfl, rfl, rfl, rfl⟩
theorem divU256 : Statement .divU256 := ⟨rfl, rfl, rfl, rfl⟩
theorem modU256 : Statement .modU256 := ⟨rfl, rfl, rfl, rfl⟩
theorem divremU256 : Statement .divremU256 := ⟨rfl, rfl, rfl, rfl⟩
theorem andU256 : Statement .andU256 := ⟨rfl, rfl, rfl, rfl⟩
theorem orU256 : Statement .orU256 := ⟨rfl, rfl, rfl, rfl⟩
theorem xorU256 : Statement .xorU256 := ⟨rfl, rfl, rfl, rfl⟩
theorem notU256 : Statement .notU256 := ⟨rfl, rfl, rfl, rfl⟩
theorem shlU256 : Statement .shlU256 := ⟨rfl, rfl, rfl, rfl⟩
theorem shrU256 : Statement .shrU256 := ⟨rfl, rfl, rfl, rfl⟩
theorem cmpuU256 : Statement .cmpuU256 := ⟨rfl, rfl, rfl, rfl⟩
theorem highbitU256 : Statement .highbitU256 := ⟨rfl, rfl, rfl, rfl⟩
theorem lowbitU256 : Statement .lowbitU256 := ⟨rfl, rfl, rfl, rfl⟩

end Sys2Proof.Laws.WordFormat
end

