-- ==== Sys2Proof/Tests/Slice0.lean ====
section
/-! SUPPORT. Sys2Proof/Tests/Slice0.lean: the model's own tests. Expected results are the vectors of 95_test_vectors.md (each
test's operands are a row of its section 1 or 2), the traces of 43_long_division.md R219, and words written out from
30_encoding.md R71 and R72. The last part shows, for each statement with hypotheses, states and operands that meet them. -/

namespace Sys2Proof.Tests

open Sys2Proof.Machine Sys2Proof.Claims

/-! ## Helpers -/

/-- What a command answers on two operands under some parameters: RES, REM and ERR. -/
def answer (i : Instr) (p : Params) (la lb : Wide) : Option (Wide × Wide × ErrCode) :=
  match exec i { State.reset with la := la, lb := lb, params := p } with
  | .next t => some (t.res, t.rem, t.status.err)
  | .fault _ => none
  | .refused _ => none

/-- The parameters of R8's defaults. -/
abbrev dflt : Params := Params.default

/-- A command word whose bits 31:8 are zero decodes to this command. -/
abbrev reads (op : BitVec 8) (i : Instr) : Prop := (decode (0#24 ++ op)).toOption = some i

/-- A command word is illegal. -/
abbrev illegal (w : Word) : Prop := (decode w).toOption = none

/-- The next state of an outcome that has one. -/
def nextState? (o : Host.Outcome State Fault Refusal) : Option State :=
  match o with
  | .next t => some t
  | .fault _ => none
  | .refused _ => none

/-- STATUS, RES and REM after the step that completes a command word on OPA = 1 and OPB = 2 (section 2.12). -/
def runWord (w : Nat) : Option (Word × Wide × Wide) :=
  (nextState? (step ({ State.reset with opa := 1, opb := 2 }.withFetchWord 32 w))).map fun t => (t.status.word, t.res, t.rem)

/-- STATUS after the completion of a command word on A = 7 and B = 0 (section 1.8). -/
def runSevenByZero (w : Nat) : Option Word :=
  (nextState? (step ({ State.reset with opa := 7 }.withFetchWord 32 w))).map fun t => t.status.word

/-- How often the clamp, the corrections and the add-back fire in Algorithm D (R219). -/
def stepsTaken (N u v : Nat) : Nat × Nat × Nat :=
  let log := (divWordsLog N u v).2.2
  (log.countP (·.clamped), (log.map (·.corrections)).sum, log.countP (·.addBack))

/-- The block after reset with operands 1.0 and 2.0 loaded (section 2.13, step 2). -/
def loaded : State :=
  { State.reset with
    opa := 0x3FFF0000_00000000_00000000_00000000
    opb := 0x40000000_00000000_00000000_00000000 }

/-- FADD.Q accepted with n cycles to go (section 2.13, step 3). -/
def running (n : Nat) : State := { acceptCommand 0x10 loaded with cnt := n }

/-! ## Well-formedness: a term each check refuses, beside one it takes -/

theorem test_legalOp_refuses : legalOp 0x15 = false ∧ legalOp 0x30 = false ∧ legalOp 0x4F = false ∧ legalOp 0x60 = false ∧
    legalOp 0x14 = true ∧ legalOp 0x5E = true := by decide
theorem test_legalWord_refuses : legalWord 0x00000110 = false ∧ legalWord 0x80000010 = false ∧ legalWord 0x00000010 = true := by
  decide
theorem test_definedAccess_refuses : definedAccess 0x042 4 = false ∧ definedAccess 0x040 2 = false ∧
    definedAccess 0x040 8 = false ∧ definedAccess 0x040 4 = true := by decide
theorem test_aligned_refuses : HostProgram.aligned [⟨none, .store 0x041 4 (.lit 0)⟩] = false ∧
    HostProgram.aligned [⟨none, .load 0x040 1 0⟩] = false ∧ HostProgram.aligned [⟨none, .rd 0x044 0⟩] = true := by decide
theorem test_labelsDistinct_refuses :
    HostProgram.labelsDistinct [⟨some 0, .rd 0x044 0⟩, ⟨some 0, .bz 0 0⟩] = false ∧
    HostProgram.labelsDistinct [⟨some 0, .rd 0x044 0⟩, ⟨some 1, .bz 0 0⟩] = true := by decide
theorem test_targetsDefined_refuses :
    HostProgram.targetsDefined [⟨some 0, .rd 0x044 0⟩, ⟨none, .bnz 0 1⟩] = false ∧
    HostProgram.targetsDefined [⟨some 0, .rd 0x044 0⟩, ⟨none, .bnz 0 0⟩] = true := by decide
theorem test_program_wf_refuses : HostProgram.wf [⟨none, .bnz 0 1⟩] = false ∧ HostProgram.wf (wait 0 1) = true := by decide

/-! ## Decoding: words written out from R71's bit patterns -/

theorem test_decode_fpArith :
    reads 0b0001_0000 .faddQ ∧ reads 0b0001_0001 .fsubQ ∧ reads 0b0001_0010 .fmulQ ∧
    reads 0b0001_0011 .fdivQ ∧ reads 0b0001_0100 .fclassQ := by decide
theorem test_decode_toBinary128 :
    reads 0b0010_0000 .fcvtQW ∧ reads 0b0010_0001 .fcvtQWU ∧ reads 0b0010_0010 .fcvtQL ∧
    reads 0b0010_0011 .fcvtQLU ∧ reads 0b0010_0100 .fcvtQU128 ∧ reads 0b0010_0101 .fcvtQU256 ∧
    reads 0b0010_0110 .fcvtQS ∧ reads 0b0010_0111 .fcvtQD := by decide
theorem test_decode_fromBinary128 :
    reads 0b0010_1000 .fcvtWQ ∧ reads 0b0010_1001 .fcvtWUQ ∧ reads 0b0010_1010 .fcvtLQ ∧
    reads 0b0010_1011 .fcvtLUQ ∧ reads 0b0010_1100 .fcvtU128Q ∧ reads 0b0010_1101 .fcvtU256Q ∧
    reads 0b0010_1110 .fcvtSQ ∧ reads 0b0010_1111 .fcvtDQ := by decide
theorem test_decode_u128 :
    reads 0b0100_0000 .addU128 ∧ reads 0b0100_0001 .subU128 ∧ reads 0b0100_0010 .mulU128 ∧
    reads 0b0100_0011 .divU128 ∧ reads 0b0100_0100 .modU128 ∧ reads 0b0100_0101 .divremU128 ∧
    reads 0b0100_0110 .andU128 ∧ reads 0b0100_0111 .orU128 ∧ reads 0b0100_1000 .xorU128 ∧
    reads 0b0100_1001 .notU128 ∧ reads 0b0100_1010 .shlU128 ∧ reads 0b0100_1011 .shrU128 ∧
    reads 0b0100_1100 .cmpuU128 ∧ reads 0b0100_1101 .highbitU128 ∧ reads 0b0100_1110 .lowbitU128 := by decide
theorem test_decode_u256 :
    reads 0b0101_0000 .addU256 ∧ reads 0b0101_0001 .subU256 ∧ reads 0b0101_0010 .mulU256 ∧
    reads 0b0101_0011 .divU256 ∧ reads 0b0101_0100 .modU256 ∧ reads 0b0101_0101 .divremU256 ∧
    reads 0b0101_0110 .andU256 ∧ reads 0b0101_0111 .orU256 ∧ reads 0b0101_1000 .xorU256 ∧
    reads 0b0101_1001 .notU256 ∧ reads 0b0101_1010 .shlU256 ∧ reads 0b0101_1011 .shrU256 ∧
    reads 0b0101_1100 .cmpuU256 ∧ reads 0b0101_1101 .highbitU256 ∧ reads 0b0101_1110 .lowbitU256 := by decide

/-- Section 2.12's illegal words. -/
theorem test_decode_illegal : illegal 0x00 ∧ illegal 0x0F ∧ illegal 0x15 ∧ illegal 0x1F ∧ illegal 0x30 ∧ illegal 0x3F ∧
    illegal 0x4F ∧ illegal 0x5F ∧ illegal 0x60 ∧ illegal 0xFF ∧ illegal 0x110 ∧ illegal 0x80000010 := by decide
theorem test_decode_opTable_unambiguous : opTable.Pairwise fun a b => a.1 ≠ b.1 := by decide
theorem test_decodeBytes_lowest_byte_first : (decodeBytes [0x55, 0x00, 0x00, 0x00, 0xAA]).toOption = some (.divremU256, [0xAA]) ∧
    (decodeBytes [0x00, 0x00, 0x00, 0x55]).toOption = none ∧ (decodeBytes [0x55, 0x00]).toOption = none := by decide
theorem test_decodeTableWord : decodeTableWord 32 0x2A = some .fcvtLQ ∧ decodeTableWord 8 0x2A = some .fcvtLQ ∧
    decodeTableWord 32 0x12A = none := by decide

/-! ## The 51 commands: rows of section 2 -/

theorem test_faddQ_tie_to_even :
    answer .faddQ dflt 0x3FFF0000_00000000_00000000_00000001
      0x3F8E0000_00000000_00000000_00000000 =
    some (0x3FFF0000_00000000_00000000_00000002, 0, .none) := by decide
theorem test_faddQ_cancellation :
    answer .faddQ dflt 0x3FFF0000_00000000_00000000_00000000
      0xBFFEFFFF_FFFFFFFF_FFFFFFFF_FFFFFFFF =
    some (0x3F8E0000_00000000_00000000_00000000, 0, .none) := by decide
theorem test_fsubQ_borrow :
    answer .fsubQ dflt 0x3FFF0000_00000000_00000000_00000000
      0x3F8E0000_00000000_00000000_00000000 =
    some (0x3FFEFFFF_FFFFFFFF_FFFFFFFF_FFFFFFFF, 0, .none) := by decide
theorem test_fsubQ_negative_zero :
    answer .fsubQ dflt 0x80000000_00000000_00000000_00000000
      0 =
    some (0, 0, .none) := by decide
theorem test_fmulQ_rounds_up_to_normal :
    answer .fmulQ dflt 0x20008000_00000000_00000000_00000000
      0x1FFF5555_55555555_55555555_55555555 =
    some (0x10000_00000000_00000000_00000000, 0, .none) := by decide
theorem test_fmulQ_subnormal_reads_as_zero :
    answer .fmulQ dflt 0x80000000_00000000_00000000_00000001
      0x3FFF0000_00000000_00000000_00000000 =
    some (0x80000000_00000000_00000000_00000000, 0, .none) := by decide
theorem test_fdivQ_rounds_up :
    answer .fdivQ dflt 0x3FFF0000_00000000_00000000_00000000
      0x40024000_00000000_00000000_00000000 =
    some (0x3FFB9999_99999999_99999999_9999999A, 0, .none) := by decide
theorem test_fdivQ_by_negative_zero :
    answer .fdivQ dflt 0x3FFF0000_00000000_00000000_00000000
      0x80000000_00000000_00000000_00000000 =
    some (0xFFFF0000_00000000_00000000_00000000, 0, .none) := by decide
theorem test_fclassQ_negative_subnormal :
    answer .fclassQ dflt 0x80000000_00000000_00000000_00000001
      0x3039 =
    some (0x18, 0, .none) := by decide
theorem test_fclassQ_negative_nan :
    answer .fclassQ dflt 0xFFFF8000_00000000_00000000_00000000
      0x3039 =
    some (0x11, 0, .none) := by decide
theorem test_fcvtQW_most_negative :
    answer .fcvtQW dflt 0x80000000
      0 =
    some (0xC01E0000_00000000_00000000_00000000, 0, .none) := by decide
theorem test_fcvtQW_ignores_upper_bits :
    answer .fcvtQW dflt 0xDEADBEEF_00000005
      0 =
    some (0x40014000_00000000_00000000_00000000, 0, .none) := by decide
theorem test_fcvtQWU_all_ones :
    answer .fcvtQWU dflt 0xFFFFFFFF
      0 =
    some (0x401EFFFF_FFFE0000_00000000_00000000, 0, .none) := by decide
theorem test_fcvtQL_most_negative :
    answer .fcvtQL dflt 0x80000000_00000000
      0 =
    some (0xC03E0000_00000000_00000000_00000000, 0, .none) := by decide
theorem test_fcvtQL_minus_five :
    answer .fcvtQL dflt 0xFFFFFFFF_FFFFFFFB
      0 =
    some (0xC0014000_00000000_00000000_00000000, 0, .none) := by decide
theorem test_fcvtQLU_top_bit :
    answer .fcvtQLU dflt 0x80000000_00000000
      0 =
    some (0x403E0000_00000000_00000000_00000000, 0, .none) := by decide
theorem test_fcvtQU128_truncates :
    answer .fcvtQU128 dflt 0x40000_00000000_00000000_00000006
      0 =
    some (0x40710000_00000000_00000000_00000001, 0, .none) := by decide
theorem test_fcvtQU128_rne_tie_up :
    answer .fcvtQU128 { dflt with intToQRound := .rne } 0x40000_00000000_00000000_00000006
      0 =
    some (0x40710000_00000000_00000000_00000002, 0, .none) := by decide
theorem test_fcvtQU256_truncates :
    answer .fcvtQU256 dflt 0x100_00000000_00000000_00000000_00000000_00000100_00000000
      0 =
    some (0x40C70000_00000000_00000000_00000000, 0, .none) := by decide
theorem test_fcvtQU256_rne_carries :
    answer .fcvtQU256 { dflt with intToQRound := .rne } 0xFFFFFFFF_FFFFFFFF_FFFFFFFF_FFFFFFFF_FFFFFFFF_FFFFFFFF_FFFFFFFF_FFFFFFFF
      0 =
    some (0x40FF0000_00000000_00000000_00000000, 0, .none) := by decide
theorem test_fcvtQS_nan_keeps_its_fraction :
    answer .fcvtQS dflt 0xFFC00000
      0 =
    some (0xFFFF8000_00000000_00000000_00000000, 0, .none) := by decide
theorem test_fcvtQS_exact_subnormal :
    answer .fcvtQS { dflt with srcSubnormal := .exact } 0x80000001
      0 =
    some (0xBF6A0000_00000000_00000000_00000000, 0, .none) := by decide
theorem test_fcvtQD_flushes_subnormal :
    answer .fcvtQD dflt 0xFFFFF_FFFFFFFF
      0 =
    some (0, 0, .none) := by decide
theorem test_fcvtQD_one_tenth :
    answer .fcvtQD dflt 0x3FB99999_9999999A
      0 =
    some (0x3FFB9999_99999999_A0000000_00000000, 0, .none) := by decide
theorem test_fcvtWQ_toward_zero :
    answer .fcvtWQ dflt 0xC0004000_00000000_00000000_00000000
      0 =
    some (0xFFFFFFFE, 0, .none) := by decide
theorem test_fcvtWQ_wraps :
    answer .fcvtWQ dflt 0x401E0000_00000000_00000000_00000000
      0 =
    some (0x80000000, 0, .none) := by decide
theorem test_fcvtWUQ_wraps :
    answer .fcvtWUQ dflt 0x401F0000_00000000_00000000_00000000
      0 =
    some (0, 0, .none) := by decide
theorem test_fcvtWUQ_of_minus_one :
    answer .fcvtWUQ dflt 0xBFFF0000_00000000_00000000_00000000
      0 =
    some (0xFFFFFFFF, 0, .none) := by decide
theorem test_fcvtLQ_not_sign_extended :
    answer .fcvtLQ dflt 0xC0014000_00000000_00000000_00000000
      0 =
    some (0xFFFFFFFF_FFFFFFFB, 0, .none) := by decide
theorem test_fcvtLQ_nan_and_infinity_under_any :
    answer .fcvtLQ { dflt with fpToIntOor := .any } 0x7FFF8000_00000000_00000000_00000000 0 = some (0, 0, .none) ∧
    answer .fcvtLQ { dflt with fpToIntOor := .any } 0xFFFF0000_00000000_00000000_00000000 0 = some (0, 0, .none) := by decide
theorem test_fcvtLUQ_wraps :
    answer .fcvtLUQ dflt 0x403F0000_00000000_10000000_00000000
      0 =
    some (0x1000, 0, .none) := by decide
theorem test_fcvtLUQ_of_minus_two :
    answer .fcvtLUQ dflt 0xC0004000_00000000_00000000_00000000
      0 =
    some (0xFFFFFFFF_FFFFFFFE, 0, .none) := by decide
theorem test_fcvtU128Q_largest :
    answer .fcvtU128Q dflt 0x407EFFFF_FFFFFFFF_FFFFFFFF_FFFFFFFF
      0 =
    some (0xFFFFFFFF_FFFFFFFF_FFFFFFFF_FFFF8000, 0, .none) := by decide
theorem test_fcvtU128Q_of_minus_one :
    answer .fcvtU128Q dflt 0xBFFF0000_00000000_00000000_00000000
      0 =
    some (0xFFFFFFFF_FFFFFFFF_FFFFFFFF_FFFFFFFF, 0, .none) := by decide
theorem test_fcvtU256Q_low_fraction_bits :
    answer .fcvtU256Q dflt 0x40840000_00000000_00000000_00080000
      0 =
    some (0x20_00000000_00000000_00000100_00000000, 0, .none) := by decide
theorem test_fcvtU256Q_of_minus_seven :
    answer .fcvtU256Q dflt 0xC001C000_00000000_00000000_00000000
      0 =
    some (0xFFFFFFFF_FFFFFFFF_FFFFFFFF_FFFFFFFF_FFFFFFFF_FFFFFFFF_FFFFFFFF_FFFFFFF9, 0, .none) := by decide
theorem test_fcvtSQ_truncates :
    answer .fcvtSQ dflt 0x3FFD5555_55555555_55555555_55555555
      0 =
    some (0x3EAAAAAA, 0, .none) := by decide
theorem test_fcvtSQ_underflows :
    answer .fcvtSQ dflt 0x3F800000_00000000_00000000_00000000
      0 =
    some (0, 0, .none) := by decide
theorem test_fcvtDQ_truncates_at_the_smallest_binade :
    answer .fcvtDQ dflt 0x3C01FFFF_FFFFFFFF_F8000000_00000000
      0 =
    some (0x1FFFFF_FFFFFFFF, 0, .none) := by decide
theorem test_fcvtDQ_nan :
    answer .fcvtDQ dflt 0x7FFF0000_00000000_00000000_00000001
      0 =
    some (0x7FF80000_00000000, 0, .none) := by decide
theorem test_addU128_carries_between_words :
    answer .addU128 dflt 0xFFFFFFFF_FFFFFFFF
      1 =
    some (0x1_00000000_00000000, 0, .none) := by decide
theorem test_addU128_wraps :
    answer .addU128 dflt 0x5_FFFFFFFF_FFFFFFFF_FFFFFFFF_FFFFFFFF
      1 =
    some (0, 0, .none) := by decide
theorem test_subU128_wraps :
    answer .subU128 dflt 5
      7 =
    some (0xFFFFFFFF_FFFFFFFF_FFFFFFFF_FFFFFFFE, 0, .none) := by decide
theorem test_mulU128_low_half :
    answer .mulU128 dflt 0x1234567_89ABCDEF_FEDCBA98_76543210
      0x11111111_11111111_22222222_22222222 =
    some (0x10D6CFFC_5BEEB4AD_DE04B3EB_ABF4C620, 0, .none) := by decide
theorem test_divU128_by_one :
    answer .divU128 dflt 0xFFFFFFFF_FFFFFFFF_FFFFFFFF_FFFFFFFF
      1 =
    some (0xFFFFFFFF_FFFFFFFF_FFFFFFFF_FFFFFFFF, 0, .none) := by decide
theorem test_divU128_by_zero :
    answer .divU128 dflt 5
      0 =
    some (0, 0, .divideByZero) := by decide
theorem test_modU128 :
    answer .modU128 dflt 0x1234567_89ABCDEF_FEDCBA98_76543210
      0x10000 =
    some (0x3210, 0, .none) := by decide
theorem test_modU128_by_zero :
    answer .modU128 dflt 7
      0 =
    some (0, 0, .divideByZero) := by decide
theorem test_divremU128_divisor_above_dividend :
    answer .divremU128 dflt 0x1234567_89ABCDEF_FEDCBA98_76543210
      0x11111111_11111111_22222222_22222222 =
    some (0, 0x1234567_89ABCDEF_FEDCBA98_76543210, .none) := by decide
theorem test_divremU128_by_zero_with_upper_bits :
    answer .divremU128 dflt 5
      0x1_00000000_00000000_00000000_00000000 =
    some (0, 0, .divideByZero) := by decide
theorem test_andU128 :
    answer .andU128 dflt 0x1234567_89ABCDEF_FEDCBA98_76543210
      0x11111111_11111111_22222222_22222222 =
    some (0x1010101_01010101_22002200_22002200, 0, .none) := by decide
theorem test_orU128 :
    answer .orU128 dflt 0x1234567_89ABCDEF_FEDCBA98_76543210
      0x11111111_11111111_22222222_22222222 =
    some (0x11335577_99BBDDFF_FEFEBABA_76763232, 0, .none) := by decide
theorem test_xorU128 :
    answer .xorU128 dflt 0x1234567_89ABCDEF_FEDCBA98_76543210
      0x11111111_11111111_22222222_22222222 =
    some (0x10325476_98BADCFE_DCFE98BA_54761032, 0, .none) := by decide
theorem test_notU128_of_zero :
    answer .notU128 dflt 0
      0 =
    some (0xFFFFFFFF_FFFFFFFF_FFFFFFFF_FFFFFFFF, 0, .none) := by decide
theorem test_notU128_ignores_upper_bits :
    answer .notU128 dflt 0xFFFFFFFF_FFFFFFFF_FFFFFFFF_FFFFFFFF_FFFFFFFF_FFFFFFFF_FFFFFFFF_FFFFFFFF
      0 =
    some (0, 0, .none) := by decide
theorem test_shlU128_by_the_width :
    answer .shlU128 dflt 0x1234567_89ABCDEF_FEDCBA98_76543210
      0x80 =
    some (0, 0, .none) := by decide
theorem test_shlU128_masked :
    answer .shlU128 { dflt with shiftOversize := .mask } 0x1234567_89ABCDEF_FEDCBA98_76543210
      0x84 =
    some (0x12345678_9ABCDEFF_EDCBA987_65432100, 0, .none) := by decide
theorem test_shrU128_oversize :
    answer .shrU128 dflt 0x1234567_89ABCDEF_FEDCBA98_76543210
      0x3E8 =
    some (0, 0, .none) := by decide
theorem test_shrU128_masked :
    answer .shrU128 { dflt with shiftOversize := .mask } 0x1234567_89ABCDEF_FEDCBA98_76543210
      0x81 =
    some (0x91A2B3_C4D5E6F7_FF6E5D4C_3B2A1908, 0, .none) := by decide
theorem test_cmpuU128_less :
    answer .cmpuU128 dflt 5
      7 =
    some (2, 0, .none) := by decide
theorem test_cmpuU128_ignores_upper_bits :
    answer .cmpuU128 dflt 0x1_00000000_00000000_00000000_00000005
      5 =
    some (1, 0, .none) := by decide
theorem test_highbitU128 :
    answer .highbitU128 dflt 0x1234567_89ABCDEF_FEDCBA98_76543210
      0 =
    some (0x78, 0, .none) := by decide
theorem test_highbitU128_of_zero :
    answer .highbitU128 dflt 0
      0 =
    some (0xFFFFFFFF_FFFFFFFF_FFFFFFFF_FFFFFFFF, 0, .none) := by decide
theorem test_lowbitU128 :
    answer .lowbitU128 dflt 0x1234567_89ABCDEF_FEDCBA98_76543210
      0 =
    some (4, 0, .none) := by decide
theorem test_lowbitU128_of_zero :
    answer .lowbitU128 dflt 0
      0 =
    some (0xFFFFFFFF_FFFFFFFF_FFFFFFFF_FFFFFFFF, 0, .none) := by decide
theorem test_addU256_carries_between_words :
    answer .addU256 dflt 0xFFFFFFFF_FFFFFFFF_FFFFFFFF_FFFFFFFF
      1 =
    some (0x1_00000000_00000000_00000000_00000000, 0, .none) := by decide
theorem test_addU256_wraps :
    answer .addU256 dflt 0xFFFFFFFF_FFFFFFFF_FFFFFFFF_FFFFFFFF_FFFFFFFF_FFFFFFFF_FFFFFFFF_FFFFFFFF
      1 =
    some (0, 0, .none) := by decide
theorem test_subU256_wraps :
    answer .subU256 dflt 0
      1 =
    some (0xFFFFFFFF_FFFFFFFF_FFFFFFFF_FFFFFFFF_FFFFFFFF_FFFFFFFF_FFFFFFFF_FFFFFFFF, 0, .none) := by decide
theorem test_mulU256_whole_product :
    answer .mulU256 dflt 0x1234567_89ABCDEF_FEDCBA98_76543210
      0x11111111_11111111_22222222_22222222 =
    some (0x136B06_E70B7421_11111111_11111111_10D6CFFC_5BEEB4AD_DE04B3EB_ABF4C620, 0, .none) := by decide
theorem test_mulU256_wraps :
    answer .mulU256 dflt 0xFFFFFFFF_FFFFFFFF_FFFFFFFF_FFFFFFFF_FFFFFFFF_FFFFFFFF_FFFFFFFF_FFFFFFFF
      0xFFFFFFFF_FFFFFFFF_FFFFFFFF_FFFFFFFF_FFFFFFFF_FFFFFFFF_FFFFFFFF_FFFFFFFF =
    some (1, 0, .none) := by decide
theorem test_divU256_by_zero :
    answer .divU256 dflt 7
      0 =
    some (0, 0, .divideByZero) := by decide
theorem test_modU256_by_zero :
    answer .modU256 dflt 7
      0 =
    some (0, 0, .divideByZero) := by decide
theorem test_divremU256 :
    answer .divremU256 dflt 0xFFFFFFFF_FFFFFFFF_FFFFFFFF_FFFFFFFF_FFFFFFFF_FFFFFFFF_FFFFFFFF_FFFFFFFF
      0xFFFFFFFF_FFFFFFFF_FFFFFFFF_FFFFFFFF_FFFFFFFF =
    some (0x1_00000000_00000000_00000000, 0xFFFFFFFF_FFFFFFFF_FFFFFFFF, .none) := by decide
theorem test_divremU256_divisor_above_128_bits :
    answer .divremU256 dflt 5
      0x1_00000000_00000000_00000000_00000000 =
    some (0, 5, .none) := by decide
theorem test_andU256 :
    answer .andU256 dflt 0x1234567_89ABCDEF_FEDCBA98_76543210_11111111_11111111_22222222_22222222
      0xFFFFFFFF_FFFFFFFF_FFFFFFFF_FFFFFFFF_FFFFFFFF_FFFFFFFF_FFFFFFFF_FFFFFFFF =
    some (0x1234567_89ABCDEF_FEDCBA98_76543210_11111111_11111111_22222222_22222222, 0, .none) := by decide
theorem test_orU256 :
    answer .orU256 dflt 0x1234567_89ABCDEF_FEDCBA98_76543210_00000000_00000000_00000000_00000000
      0x11111111_11111111_22222222_22222222 =
    some (0x1234567_89ABCDEF_FEDCBA98_76543210_11111111_11111111_22222222_22222222, 0, .none) := by decide
theorem test_xorU256 :
    answer .xorU256 dflt 0xFFFFFFFF_FFFFFFFF_FFFFFFFF_FFFFFFFF_FFFFFFFF_FFFFFFFF_FFFFFFFF_FFFFFFFF
      0x1234567_89ABCDEF_FEDCBA98_76543210 =
    some (0xFFFFFFFF_FFFFFFFF_FFFFFFFF_FFFFFFFF_FEDCBA98_76543210_01234567_89ABCDEF, 0, .none) := by decide
theorem test_notU256_of_zero :
    answer .notU256 dflt 0
      0 =
    some (0xFFFFFFFF_FFFFFFFF_FFFFFFFF_FFFFFFFF_FFFFFFFF_FFFFFFFF_FFFFFFFF_FFFFFFFF, 0, .none) := by decide
theorem test_shlU256_across_words :
    answer .shlU256 dflt 0x1234567_89ABCDEF_FEDCBA98_76543210
      0x40 =
    some (0x1234567_89ABCDEF_FEDCBA98_76543210_00000000_00000000, 0, .none) := by decide
theorem test_shlU256_to_the_top :
    answer .shlU256 dflt 1
      0xFF =
    some (0x80000000_00000000_00000000_00000000_00000000_00000000_00000000_00000000, 0, .none) := by decide
theorem test_shrU256_from_the_top :
    answer .shrU256 dflt 0x80000000_00000000_00000000_00000000_00000000_00000000_00000000_00000000
      0xFF =
    some (1, 0, .none) := by decide
theorem test_shrU256_masked :
    answer .shrU256 { dflt with shiftOversize := .mask } 0xFFFFFFFF_FFFFFFFF_FFFFFFFF_FFFFFFFF_FFFFFFFF_FFFFFFFF_FFFFFFFF_FFFFFFFF
      0x12C =
    some (0xFFFFF_FFFFFFFF_FFFFFFFF_FFFFFFFF_FFFFFFFF_FFFFFFFF_FFFFFFFF, 0, .none) := by decide
theorem test_cmpuU256_greater :
    answer .cmpuU256 dflt 0x1_00000000_00000000_00000000_00000005
      5 =
    some (0, 0, .none) := by decide
theorem test_cmpuU256_unsigned :
    answer .cmpuU256 dflt 0x80000000_00000000_00000000_00000000_00000000_00000000_00000000_00000000
      1 =
    some (0, 0, .none) := by decide
theorem test_highbitU256_of_zero :
    answer .highbitU256 dflt 0
      0 =
    some (0xFFFFFFFF_FFFFFFFF_FFFFFFFF_FFFFFFFF_FFFFFFFF_FFFFFFFF_FFFFFFFF_FFFFFFFF, 0, .none) := by decide
theorem test_highbitU256_top :
    answer .highbitU256 dflt 0x80000000_00000000_00000000_00000000_00000000_00000000_00000000_00000000
      0 =
    some (0xFF, 0, .none) := by decide
theorem test_lowbitU256 :
    answer .lowbitU256 dflt 0x12345678_9ABCDEFF_EDCBA987_65432100_00000000_00000000_00000000
      0 =
    some (0x68, 0, .none) := by decide
theorem test_lowbitU256_top :
    answer .lowbitU256 dflt 0x80000000_00000000_00000000_00000000_00000000_00000000_00000000_00000000
      0 =
    some (0xFF, 0, .none) := by decide
theorem test_divU256_add_back_case :
    answer .divU256 dflt 0x80000000_00000000_00000000_00000000_00000000_00000000_00000000_00003039
      0x1_00000000_00000000_00000000_00000001 =
    some (0x7FFFFFFF_FFFFFFFF_FFFFFFFF_FFFFFFFF, 0, .none) := by decide
theorem test_modU256_add_back_case :
    answer .modU256 dflt 0x80000000_00000000_00000000_00000000_00000000_00000000_00000000_00003039
      0x1_00000000_00000000_00000000_00000001 =
    some (0x80000000_00000000_00000000_0000303A, 0, .none) := by decide

/-! ## The reference algorithm: traces of R219 -/

theorem test_knuth_one_correction :
    divWords 4 0x93EA5C4E_FFFFFFFF_E8E5B461 0xBB6FE507_FFFFFFFF = (0xCA058E97, 0x96CD7848_B2EB42F8) ∧
    stepsTaken 4 0x93EA5C4E_FFFFFFFF_E8E5B461 0xBB6FE507_FFFFFFFF = (0, 1, 0) := by decide
theorem test_knuth_two_corrections :
    divWords 4 0x6C0F3459_81F9C1F6_3099FDF5 0x80000000_FFFFFFFF = (0xD81E68B1, 0x29DB5946_08B866A6) ∧
    stepsTaken 4 0x6C0F3459_81F9C1F6_3099FDF5 0x80000000_FFFFFFFF = (0, 2, 0) := by decide
theorem test_knuth_clamp_and_add_back :
    divWords 4 0x80000000_00000000_00000000_00000000 0x80000000_00000000_00000001 =
      (0xFFFFFFFF, 0x7FFFFFFF_FFFFFFFF_00000001) ∧
    stepsTaken 4 0x80000000_00000000_00000000_00000000 0x80000000_00000000_00000001 = (1, 0, 1) := by decide
theorem test_knuth_single_word :
    divWords 4 0xFFFFFFFF_FFFFFFFF_FFFFFFFF_FFFFFFFF 3 = (0x55555555_55555555_55555555_55555555, 0) := by decide

/-! ## The block's steps: sections 1.8, 2.12 and 2.13 -/

theorem test_step_legal_words : runWord 0x10 = some (0x00001002, 0, 0) ∧ runWord 0x40 = some (0x00004002, 3, 0) := by decide
theorem test_step_illegal_words : runWord 0x00 = some (0x00000022, 0, 0) ∧ runWord 0xFF = some (0x0000FF22, 0, 0) ∧
    runWord 0x110 = some (0x00001022, 0, 0) ∧ runWord 0x80000010 = some (0x00001022, 0, 0) := by decide
theorem test_step_divide_by_zero : runSevenByZero 0x43 = some 0x00004312 ∧ runSevenByZero 0x45 = some 0x00004512 ∧
    runSevenByZero 0x53 = some 0x00005312 := by decide
theorem test_accept : (nextState? (windowWrite 0x040 4 0x10 loaded)).map (fun t => (t.status.word, t.la, t.lb, t.lcmd)) =
    some (0x00001001, loaded.opa, loaded.opb, 0x10) := by decide
theorem test_drop : (nextState? (windowWrite 0x040 4 0x12 (running 1))).map (fun t => (t.status.word, t.lcmd)) =
    some (0x00001005, 0x10) := by decide
theorem test_operand_write_while_busy :
    (nextState? (windowWrite 0x00C 4 0x40008000 (running 1))).map (fun t => (t.opa, t.la)) =
    some (0x40008000_00000000_00000000_00000000, 0x3FFF0000_00000000_00000000_00000000) := by decide
theorem test_completion_keeps_drop : (nextState? (step (dropCommand (running 1)))).map (fun t => (t.status.word, t.res)) =
    some (0x00001006, 0x40008000_00000000_00000000_00000000) := by decide
theorem test_reset_beats_completion : nextState? (step { running 1 with resetLine := true }) =
    some { State.reset with resetLine := true } := by decide
theorem test_read_result_word : (windowRead 0x08C 4 { loaded with res := 0x40008000_00000000_00000000_00000000 }).toOption =
    some 0x40008000 := by decide
theorem test_reads_while_reset : (windowRead 0x00C 4 { loaded with resetLine := true }).toOption = some 0 := by decide
theorem test_access_before_reset : nextState? (windowWrite 0x000 4 1 { loaded with wasReset := false }) = none := by decide
theorem test_host_poll_and_branch :
    (nextState? (step { running 2 with prog := wait 7 3, inputs := [.host] })).map (fun t => (t.vars, t.hpc)) =
      some ([(7, 0x00001001)], 1) ∧
    (nextState? (step { running 2 with prog := wait 7 3, hpc := 2, vars := [(7, 1)], inputs := [.host] })).map (·.hpc) =
      some 0 := by decide
theorem test_host_unwritten_variable :
    nextState? (step { loaded with prog := [⟨none, .bz 0 0⟩], inputs := [.host] }) = none := by decide
theorem test_other_master :
    (nextState? (step { loaded with inputs := [.bus (.write 0x00000020 4 5)] })).map (·.opb) =
    some 0x40000000_00000000_00000000_00000005 := by decide
theorem test_reset_variables_canonical : varsSorted State.reset.vars = true ∧ launch State.reset = true := by decide
theorem test_relations : [Relation.eq, .ne, .ltu, .leu, .gtu, .geu].map (fun r => evalExpr [(0, 2)] (relationExpr (.var 0) r)) =
    [some 0, some 1, some 1, some 1, some 0, some 0] := by decide
/-- The 28 statements of `CMPU r, a, b` are followed by the relation on word 0 and by zeros on words 1 to 7. -/
theorem test_compare_whole_result :
    ((compare .cmpuU256 .ltu 10 (wideLit 1) (wideLit 2) 0 1).drop 28).map HostLine.stmt =
      .assign 10 (.and (.shr (.var 10) 1) (.lit 1)) ::
        [11, 12, 13, 14, 15, 16, 17].map fun x => .assign x (.lit 0) := by decide
/-- TRUNC writes the four low words; ZEXT clears the four high ones too. -/
theorem test_truncate_and_extend :
    (truncU128 10 (wideVar 20)).map HostLine.stmt = [10, 11, 12, 13].map (fun x => .assign x (.var (x + 10))) ∧
    ((zextU256 10 (wideVar 20)).drop 4).map HostLine.stmt = [14, 15, 16, 17].map fun x => .assign x (.lit 0) := by decide
/-- P4 of section 3: its first CMD write keeps the duties, and its second does by accepting the drop. -/
theorem test_duties_of_P4 :
    let first : HostStmt := .wr 0x040 (.lit 0x30)
    let second : HostStmt := .wr 0x040 (.lit 0x10)
    let v := HostView.launch.after first State.reset
    keepsDuties false HostView.launch first = true ∧ keepsDuties false v second = false ∧ keepsDuties true v second = true := by
  decide
/-- RES may be read once a STATUS read has returned DONE = 1, and not before. -/
theorem test_duty_of_result_reads :
    let v : HostView := ⟨false, false⟩
    let poll : HostStmt := .rd 0x044 0
    let done : State := { loaded with status := (Status.accepted 0x10).completed .none }
    keepsDuties false v (.rd 0x08C 1) = false ∧ keepsDuties false (v.after poll (running 1)) (.rd 0x08C 1) = false ∧
    keepsDuties false (v.after poll done) (.rd 0x08C 1) = true ∧ keepsDuties false (v.after poll done) (.rd 0x08D 1) = false := by
  decide

/-! ## Witnesses: what each statement with hypotheses asks can be met -/

theorem witness_DecodeInvertsEncodeOnAllWords : decode 0x0000005E = .ok .lowbitU256 := rfl
/-- Both sides of every edge of R74's ranges, and of R75. -/
theorem witness_ReservedWordsDecodeAsIllegal :
    (IllegalWord 0x00 ∧ IllegalWord 0x0F ∧ IllegalWord 0x15 ∧ IllegalWord 0x1F ∧ IllegalWord 0x30 ∧ IllegalWord 0x3F ∧
      IllegalWord 0x4F ∧ IllegalWord 0x5F ∧ IllegalWord 0x60 ∧ IllegalWord 0xFF ∧ IllegalWord 0x110) ∧
    ¬IllegalWord 0x10 ∧ ¬IllegalWord 0x14 ∧ ¬IllegalWord 0x20 ∧ ¬IllegalWord 0x2F ∧
    ¬IllegalWord 0x40 ∧ ¬IllegalWord 0x4E ∧ ¬IllegalWord 0x50 ∧ ¬IllegalWord 0x5E :=
  ⟨⟨by decide, by decide, by decide, by decide, by decide, by decide, by decide, by decide, by decide, by decide, by decide⟩,
    by decide, by decide, by decide, by decide, by decide, by decide, by decide, by decide⟩
theorem witness_AcceptanceLatchesTheOperands : Accessible loaded ∧ loaded.status.busy = false := by decide
theorem witness_CommandWhileBusyIsDropped : Accessible (running 1) ∧ (running 1).status.busy = true := by decide
theorem witness_StepCompletesTheDecodedCommand :
    let s := running 1
    let t := { running 1 with inputs := [.tick, .host] }
    (s.resetLine = false ∧ s.status.busy = true ∧ s.cnt ≤ 1 ∧ decode s.lcmd = .ok .faddQ ∧ s.inputs = []) ∧
    t.resetLine = false ∧ t.status.busy = true ∧ t.cnt ≤ 1 ∧ decode t.lcmd = .ok .faddQ ∧ t.inputs = .tick :: [.host] :=
  ⟨⟨rfl, rfl, by decide, rfl, rfl⟩, rfl, rfl, by decide, rfl, rfl⟩
theorem witness_IllegalWordRunsToIllegalCommand :
    let s (n : Nat) : State := { acceptCommand 0x110 loaded with cnt := n }
    IllegalWord 0x110 ∧ (Accessible loaded ∧ loaded.status.busy = false) ∧
    (Accessible (s 2) ∧ (s 2).status.busy = true ∧ (s 2).lcmd = 0x110 ∧ 2 ≤ (s 2).cnt) ∧
    (Accessible (s 1) ∧ (s 1).status.busy = true ∧ (s 1).lcmd = 0x110 ∧ (s 1).cnt ≤ 1) := by decide
theorem witness_CountdownEndsInCompletion :
    let s := running 3
    (s.resetLine = false ∧ s.status.busy = true ∧ s.inputs = [] ∧ 1 ≤ s.cnt ∧ 2 < s.cnt ∧ 0 < s.cnt) ∧
    (let t := { running 2 with inputs := [.tick, .host] }
     t.resetLine = false ∧ t.status.busy = true ∧ 2 ≤ t.cnt) ∧
    loaded.resetLine = false ∧ loaded.status.busy = false := by decide
theorem witness_ResultIsFixedAtAcceptance :
    let pre : List Input := [.bus (.write 0x00000000 4 5), .tick, .host, .bus (.write 0x00000040 4 0x12)]
    let s := { running 2 with inputs := pre ++ [.tick] }
    s.resetLine = false ∧ s.status.busy = true ∧ s.inputs = pre ++ .tick :: [] ∧ pre.count .tick + 1 = s.cnt ∧
    (∀ b : Bool, Input.resetLine b ∉ pre) ∧ ∃ t, Host.Core.run core (pre.length + 1) s = .next t :=
  ⟨rfl, rfl, rfl, rfl, by decide, _, rfl⟩
/-- An idle state, a busy one, and the one a completion leaves. -/
theorem witness_StepKeepsTheInvariant :
    (Inv State.reset ∧ ∃ t, step State.reset = .next t) ∧ (Inv (running 1) ∧ ∃ t, step (running 1) = .next t) ∧
    ∃ t u, step (running 1) = .next t ∧ Inv t ∧ t.status.done = true ∧ step t = .next u :=
  ⟨⟨⟨by decide, by decide, fun h => absurd h (by decide), fun _ _ => rfl, by decide⟩, _, rfl⟩,
    ⟨⟨by decide, fun _ => by decide, fun h => absurd h (by decide), fun h => absurd h (by decide), by decide⟩, _, rfl⟩,
    _, _, rfl, ⟨by decide, fun h => absurd h (by decide),
      fun _ => ⟨rfl, running 1, _, rfl, rfl, rfl, rfl, rfl, rfl, rfl, rfl⟩, fun _ h => absurd h (by decide), by decide⟩,
    rfl, rfl⟩
theorem witness_ResultsChangeOnlyAtCompletionOrReset :
    (∃ t, step (running 1) = .next t ∧ t.res ≠ (running 1).res) ∧
    ∃ t, step { loaded with rem := 5, resetLine := true } = .next t ∧ t.rem ≠ 5 :=
  ⟨⟨_, rfl, by decide⟩, _, rfl, by decide⟩
theorem witness_DropIsSticky :
    let s := dropCommand (running 1)
    let idle := { loaded with status := { Status.reset with drop := true } }
    (Accessible s ∧ s.status.busy = true) ∧ (Accessible idle ∧ idle.status.busy = false) ∧
    ({ s with resetLine := true } : State).resetLine = true ∧
    (∃ t, step { s with resetLine := true } = .next t ∧ s.status.drop = true ∧ t.status.drop = false) ∧
    ∃ t, step { idle with inputs := [.bus (.write 0x00000040 4 0x10)] } = .next t ∧ idle.status.drop = true ∧
      t.status.drop = false :=
  ⟨by decide, by decide, rfl, ⟨_, rfl, rfl, rfl⟩, _, rfl, rfl, rfl⟩
theorem witness_ParametersAndProgramAreFixed : ∃ t, step (running 2) = .next t := ⟨_, rfl⟩
theorem witness_OperandWordWriteSetsItsBitsOnly : (0 < 8 ∧ Accessible loaded) ∧ 7 < 8 ∧ Accessible (running 1) := by decide
/-- Both ends of each reserved range (R35). -/
theorem witness_WindowFollowsTheRegisterMap :
    Accessible loaded ∧ (∀ off ∈ [0x048#12, 0x07C#12], off.toNat % 4 = 0 ∧ 0x048 ≤ off.toNat ∧ off.toNat ≤ 0x07C) ∧
    ∀ off ∈ [0x0C0#12, 0xFFC#12], off.toNat % 4 = 0 ∧ 0x0C0 ≤ off.toNat ∧ off.toNat ≤ 0xFFC := by decide
theorem witness_UndefinedAccessesAreRefused :
    (loaded.wasReset = true ∧ (2 ≠ 4 ∨ (0x040#12).toNat % 4 ≠ 0)) ∧
    (loaded.wasReset = true ∧ (4 ≠ 4 ∨ (0x043#12).toNat % 4 ≠ 0)) ∧
    ({ loaded with wasReset := false } : State).wasReset = false := by decide
theorem witness_RegisterImagesAreLittleEndian : 0 < 32 ∧ 31 < 32 := by decide
/-- The addresses next to a window that starts at 0x1000, and a read of it that is refused and one that is not. -/
theorem witness_BusAddressesSelectTheWindow :
    let s := { loaded with params := { dflt with basePage := 1 } }
    ((0x00000FFF : Word).toNat < (base s.params).toNat) ∧ (base s.params).toNat + 0x1000 ≤ (0x00002000 : Word).toNat ∧
    windowRead 0xFFE 4 s = .error .undefinedAccess ∧ windowRead 0x00C 4 s = .ok 0x3FFF0000 :=
  ⟨by decide, by decide, rfl, rfl⟩
theorem witness_ResetClearsTheBlock :
    let s := { running 1 with resetLine := true }
    s.resetLine = true ∧ s.wasReset = true ∧ (0x040#12).toNat % 4 = 0 := by decide
theorem witness_HostStatementsAdvanceByOne :
    let s := { loaded with vars := [(3, 9)] }
    Accessible s ∧ (0x040#12).toNat % 4 = 0 ∧ evalExpr s.vars (.and (.var 3) (.lit 1)) = some 1 := by decide
/-- A branch taken and not taken, to the first statement and to the last. -/
theorem witness_HostBranchesFollowTheirVariable :
    let s := { loaded with prog := [⟨some 1, .rd 0x044 0⟩, ⟨some 2, .bz 0 1⟩], vars := [(0, 0), (4, 6)] }
    (getVar s.vars 0 = some 0 ∧ s.prog[0]? = some ⟨some 1, .rd 0x044 0⟩ ∧ (HostProgram.labels s.prog).Nodup) ∧
    getVar s.vars 4 = some 6 ∧ s.prog[1]? = some ⟨some 2, .bz 0 1⟩ := by decide
/-- With R84's own `t AND 1`, and with an expression that reads the variable last. -/
theorem witness_HostVariablesReadBack :
    varsSorted [(0, 5), (4, 6)] = true ∧ varsSorted [] = true ∧ getVar loaded.vars 0 = none ∧
    HostExpr.reads 0 (.and (.var 0) (.lit 1)) = true ∧ HostExpr.reads 0 (.add (.var 4) (.shl (.var 0) 3)) = true := by decide
theorem witness_StepCarriesOutTheListedMove :
    let line : HostLine := ⟨none, .rd 0x044 0⟩
    let s (x : Input) : State := { loaded with prog := [line], inputs := [x] }
    ((s .host).inputs = .host :: [] ∧ (s .host).prog[(s .host).hpc]? = some line) ∧
    (let ended := { s .host with hpc := 1 }
     ended.inputs = .host :: [] ∧ ended.prog.length ≤ ended.hpc) ∧
    (s (.bus (.read 0x00000044 4))).inputs = .bus (.read 0x00000044 4) :: [] ∧
    (s (.resetLine true)).inputs = .resetLine true :: [] ∧ (s .tick).inputs = .tick :: [] ∧ loaded.inputs = [] := by decide
/-- The first CMD write from launch, a poll that sees the completion, and the read of a result word after it. -/
theorem witness_DutifulHostKnowsTheBlock :
    (let s := { loaded with prog := [⟨none, .wr 0x040 (.lit 0x10)⟩], inputs := [.host] }
     launch s = true ∧ s.resetLine = false ∧ s.inputs.head? = some .host ∧ HostView.launch.Holds s ∧
       moveKeepsDuties false HostView.launch s = true ∧ ∃ t, step s = .next t) ∧
    (let s := { loaded with status := (Status.accepted 0x10).completed .none, prog := [⟨none, .rd 0x08C 1⟩], inputs := [.host] }
     let v : HostView := ⟨true, true⟩
     s.resetLine = false ∧ v.Holds s ∧ hostMove? s = some (.load 0x08C 4 1) ∧ moveKeepsDuties false v s = true ∧
       Reg.isResult (regAt 0x08C) = true ∧ ∃ t, step s = .next t) ∧
    (let v : HostView := ⟨false, false⟩
     v.Holds (running 1) ∧ (running 1).inputs = [] ∧ ∃ t, step (running 1) = .next t) :=
  ⟨⟨rfl, rfl, rfl, ⟨fun _ => rfl, fun h => absurd h (by decide)⟩, rfl, _, rfl⟩,
    ⟨rfl, ⟨fun _ => rfl, fun _ => rfl⟩, rfl, rfl, rfl, _, rfl⟩,
    ⟨fun h => absurd h (by decide), fun h => absurd h (by decide)⟩, rfl, _, rfl⟩
/-- A command, its wait and the read of its result. -/
theorem witness_DutifulRunDropsNoCommand :
    let s := { loaded with
      prog := cmd .faddQ ++ wait 0 1 ++ [⟨none, .rd 0x08C 1⟩]
      inputs := [.host, .tick, .host, .host, .host, .host] }
    launch s = true ∧ s.resetLine = false ∧ s.status.drop = false ∧ (∀ x ∈ s.inputs, x = .tick ∨ x = .host) ∧
    dutifulRun (fun _ => false) 6 HostView.launch s = true ∧
    ∃ t, Host.Core.run core 6 s = .next t ∧ getVar t.vars 1 = some 0x40008000 :=
  ⟨rfl, rfl, rfl, by decide, by decide, _, rfl, rfl⟩
theorem witness_BitsAboveTheOperandAreIgnored :
    low (operandBits .fcvtQW).1 (0xDEADBEEF_00000005 : Wide) = low (operandBits .fcvtQW).1 (5 : Wide) ∧
    low (operandBits .fcvtQW).2 (7 : Wide) = low (operandBits .fcvtQW).2 (9 : Wide) := by decide
theorem witness_RoundpackFollowsItsRule : 0 < 1 ∧ 0 < 3 := by decide
theorem witness_GrsRuleIsRoundToNearestEven : 0 < 1 ∧ 1 < 2 ∧ 7 < 8 := by decide
/-- Both ends of the range of the Normal values. -/
theorem witness_RoundingGivesTheNearestNormal :
    (let v : ℚ := ((1 : Nat) : ℚ) / (1 : Nat) * (2 : ℚ) ^ (-16382 : ℤ)
     (2 : ℚ) ^ (-16382 : ℤ) ≤ v ∧ v ≤ (2 - (2 : ℚ) ^ (-112 : ℤ)) * (2 : ℚ) ^ (16383 : ℤ)) ∧
    (let v : ℚ := ((2 ^ 113 - 1 : Nat) : ℚ) / (1 : Nat) * (2 : ℚ) ^ (16271 : ℤ)
     (2 : ℚ) ^ (-16382 : ℤ) ≤ v ∧ v ≤ (2 - (2 : ℚ) ^ (-112 : ℤ)) * (2 : ℚ) ^ (16383 : ℤ)) := by
  have h1 : (2 : ℚ) ^ (-16382 : ℤ) ≤ 1 := zpow_le_one_of_nonpos₀ (by norm_num) (by norm_num)
  have h2 : (1 : ℚ) ≤ (2 : ℚ) ^ (16271 : ℤ) := one_le_zpow₀ (by norm_num) (by norm_num)
  have h3 : (2 : ℚ) ^ (16383 : ℤ) = 2 ^ (112 : ℤ) * 2 ^ (16271 : ℤ) := by rw [← zpow_add₀ (by norm_num)]; norm_num
  have h4 : (2 : ℚ) ^ (112 : ℤ) = 5192296858534827628530496329220096 := by norm_num
  have h5 : (2 : ℚ) ^ (-112 : ℤ) = 1 / 5192296858534827628530496329220096 := by rw [zpow_neg, h4]; norm_num
  rw [h3, h4, h5]
  clear h3 h4 h5
  generalize (2 : ℚ) ^ (16271 : ℤ) = x at *
  generalize (2 : ℚ) ^ (-16382 : ℤ) = y at *
  norm_num
  refine ⟨?_, ?_, ?_⟩ <;> ring_nf <;> linarith
theorem witness_IntegersBelow113BitsConvertExactly : (0 < 1 ∧ 1 < 2 ^ 113) ∧ 0 < 2 ^ 113 - 1 ∧ 2 ^ 113 - 1 < 2 ^ 113 := by
  decide
/-- A zero, an infinity and a normal value of each width. -/
theorem witness_NarrowFloatsRoundTrip :
    (∀ d ∈ [0x80000000_00000000, 0x7FF00000_00000000, 0x3FB99999_9999999A],
      d / 2 ^ 52 % 2 ^ 11 = 0 ∨ d / 2 ^ 52 % 2 ^ 11 = 2 ^ 11 - 1 → d % 2 ^ 52 = 0) ∧
    ∀ d ∈ [0x80000000, 0x7F800000, 0x3F800001],
      d / 2 ^ 23 % 2 ^ 8 = 0 ∨ d / 2 ^ 23 % 2 ^ 8 = 2 ^ 8 - 1 → d % 2 ^ 23 = 0 := by decide
/-- The largest amount below the width, and the width itself under each policy. -/
theorem witness_ShiftsFollowTheWholeAmount :
    low 128 (127 : Wide) < 128 ∧ low 256 (255 : Wide) < 256 ∧ (128 ≤ low 128 (128 : Wide) ∧ dflt.shiftOversize = .zero) ∧
    (256 ≤ low 256 (256 : Wide) ∧ { dflt with shiftOversize := .mask }.shiftOversize = .mask) := by decide
theorem witness_BitQueriesFindTheBit :
    low 128 (0x1_00000000_00000000_00000000_00000000 : Wide) = 0 ∧ low 256 (0x1_00000000_00000000_00000000_00000000 : Wide) ≠ 0 ∧
    low 256 (0 : Wide) = 0 ∧ low 128 (8 : Wide) ≠ 0 := by decide
theorem witness_DivisionIdentityHolds :
    low 128 (1 : Wide) ≠ 0 ∧ low 256 (0x1_00000000_00000000_00000000_00000000 : Wide) ≠ 0 := by decide
/-- The smallest normalised divisor with the largest window, and the largest divisor with an empty one. -/
theorem witness_KnuthDigitIsExact :
    (2 ≤ 2 ∧ 2 ^ 31 * digitBase ^ (2 - 1) ≤ 2 ^ 31 * digitBase ∧ 2 ^ 31 * digitBase < digitBase ^ 2 ∧
      2 ^ 31 * digitBase * digitBase - 1 < 2 ^ 31 * digitBase * digitBase) ∧
    2 ^ 31 * digitBase ^ (3 - 1) ≤ digitBase ^ 3 - 1 ∧ digitBase ^ 3 - 1 < digitBase ^ 3 ∧
      0 < (digitBase ^ 3 - 1) * digitBase ∧ 2 ≤ 3 := by decide
theorem witness_KnuthAlgorithmDDividesExactly :
    (1 ≠ 0 ∧ 2 ^ 32 - 1 < digitBase ^ 1 ∧ 1 < digitBase ^ 1) ∧ 2 ^ 256 - 1 ≠ 0 ∧ 2 ^ 256 - 1 < digitBase ^ 8 := by decide
theorem witness_ArithmeticNeverGivesASubnormal : Instr.fdivQ = .faddQ ∨ Instr.fdivQ = .fsubQ ∨ Instr.fdivQ = .fmulQ ∨
    Instr.fdivQ = .fdivQ := by decide

end Sys2Proof.Tests
end

section
/-! The parameters of 00_scope.md R8 and the host program of 44_host_access.md R193 are constants of a run: every operation
that a step is made of keeps them, so every step does. -/

namespace Sys2Proof.Machine

/-- The two states have the same parameters and the same host program. -/
def SameSetup (s t : State) : Prop := t.params = s.params ∧ t.prog = s.prog

theorem SameSetup.refl (s : State) : SameSetup s s := ⟨rfl, rfl⟩

theorem writeReg_sameSetup (s : State) (w : Word) (r : Reg) : SameSetup s (writeReg s w r) := by
  rcases writeReg_cases s w r with ⟨v, h⟩ | ⟨v, h⟩ | ⟨-, -, h⟩ | ⟨-, -, h⟩ | h <;> rw [h]
  · exact .refl s
  · exact .refl s
  · exact ⟨acceptCommand_params w s, acceptCommand_prog w s⟩
  · exact ⟨dropCommand_params s, dropCommand_prog s⟩
  · exact .refl s

theorem busAccess_sameSetup {a : BusAccess} {s t : State} (h : busAccess a s = .next t) : SameSetup s t := by
  rcases busAccess_next h with rfl | ⟨-, w, r, rfl⟩
  · exact .refl t
  · exact writeReg_sameSetup s w r

theorem execStmt_sameSetup {c : HostStmt} {s t : State} (h : execStmt c s = .next t) : SameSetup s t := by
  rcases execStmt_next h with ⟨k, rfl⟩ | ⟨x, w, k, rfl⟩ | ⟨-, w, r, rfl⟩
  · exact .refl s
  · exact .refl s
  · exact writeReg_sameSetup s w r

theorem completeCommand_sameSetup {s t : State} (h : completeCommand s = .next t) : SameSetup s t := by
  obtain ⟨r, q, e, hc⟩ := completeCommand_completes s
  obtain rfl : complete r q e s = t := by simpa [hc] using h
  exact ⟨complete_params r q e s, complete_prog r q e s⟩

theorem clockTick_sameSetup {s t : State} (h : clockTick s = .next t) : SameSetup s t := by
  rcases clockTick_cases s with ⟨-, hc⟩ | ⟨-, -, -, hc⟩ | ⟨-, -, -, hc⟩ | ⟨-, -, hc⟩ <;> rw [hc] at h
  · cases h; exact ⟨resetBlock_params s, resetBlock_prog s⟩
  · exact completeCommand_sameSetup h
  · cases h; exact .refl s
  · cases h; exact .refl s

/-- Taking the move off `inputs` touches neither part of the setup, so what the move keeps, the step keeps. -/
theorem step_sameSetup {s t : State} (h : step s = .next t) : SameSetup s t := by
  obtain ⟨rest, hmove⟩ := step_cases h
  change SameSetup { s with inputs := rest } t
  rcases hmove with ⟨-, hTick⟩ | ⟨-, rfl | ⟨c, hHost⟩⟩ | ⟨a, -, hBus⟩ | ⟨level, -, rfl⟩
  · exact clockTick_sameSetup hTick
  · exact .refl _
  · exact execStmt_sameSetup hHost
  · exact busAccess_sameSetup hBus
  · exact .refl { s with inputs := rest }

/-- Settles O16: each kind of move keeps the parameters and the host program; the defaults are those of `Params.default`,
which the state after reset holds. -/
theorem parametersAndProgramAreFixed : Obligations.ParametersAndProgramAreFixed :=
  ⟨fun _ _ h => step_sameSetup h, rfl, rfl, rfl, rfl, rfl, rfl⟩

end Sys2Proof.Machine
end

section
/-! What a step can do to the command the block holds: a clock cycle resets, completes, counts down or does nothing; a move
of the host or of another master leaves the command alone, has one accepted or has one dropped. The claims about runs,
results and STATUS (10_state.md R20 to R39) follow from these cases. -/

namespace Sys2Proof.Machine

open Sys2Proof.Claims

/-! ## The cases of a step -/

/-- The two states agree on the command, its results and STATUS, and on all these depend on; OPA, OPB, the host's side and
the moves to come may differ. -/
structure SameCommand (s t : State) : Prop where
  res : t.res = s.res := by rfl
  rem : t.rem = s.rem := by rfl
  status : t.status = s.status := by rfl
  la : t.la = s.la := by rfl
  lb : t.lb = s.lb := by rfl
  lcmd : t.lcmd = s.lcmd := by rfl
  cnt : t.cnt = s.cnt := by rfl
  resetLine : t.resetLine = s.resetLine := by rfl
  params : t.params = s.params := by rfl
  draws : t.draws = s.draws := by rfl

/-- What an access can do to the command (10_state.md R37, R38). -/
inductive AccessEffect (s t : State) : Prop where
  | unchanged (same : SameCommand s t)
  | accepted (w : Word) (idle : s.status.busy = false) (same : SameCommand (acceptCommand w s) t)
  | dropped (busy : s.status.busy = true) (same : SameCommand (dropCommand s) t)

/-- What a move of the host or of another master can do: to the command, to the moves to come and to the host's variables. -/
structure AgentMove (s t : State) : Prop where
  effect : AccessEffect s t
  inputs : t.inputs = s.inputs
  vars : varsSorted s.vars = true → varsSorted t.vars = true

theorem AgentMove.of_unchanged {s t : State} (h : SameCommand s t) (hi : t.inputs = s.inputs)
    (hv : varsSorted s.vars = true → varsSorted t.vars = true) : AgentMove s t := ⟨.unchanged h, hi, hv⟩

theorem writeReg_agentMove (s : State) (w : Word) (r : Reg) : AgentMove s (writeReg s w r) := by
  rcases writeReg_cases s w r with ⟨v, h⟩ | ⟨v, h⟩ | ⟨-, idle, h⟩ | ⟨-, busy, h⟩ | h <;> rw [h]
  · exact .of_unchanged {} rfl id
  · exact .of_unchanged {} rfl id
  · exact ⟨.accepted w idle {}, rfl, id⟩
  · exact ⟨.dropped busy {}, rfl, id⟩
  · exact .of_unchanged {} rfl id

/-- Moving the host on by one statement adds nothing to what a move does. -/
theorem AgentMove.advance {s t : State} (h : AgentMove s t) : AgentMove s t.advance := by
  obtain ⟨effect, inputs, vars⟩ := h
  refine ⟨?_, inputs, vars⟩
  cases effect with
  | unchanged same => exact .unchanged { same with }
  | accepted w idle same => exact .accepted w idle { same with }
  | dropped busy same => exact .dropped busy { same with }

theorem busAccess_agentMove {a : BusAccess} {s t : State} (h : busAccess a s = .next t) : AgentMove s t := by
  rcases busAccess_next h with rfl | ⟨-, w, r, rfl⟩
  · exact .of_unchanged {} rfl id
  · exact writeReg_agentMove s w r

theorem execStmt_agentMove {c : HostStmt} {s t : State} (h : execStmt c s = .next t) : AgentMove s t := by
  rcases execStmt_next h with ⟨k, rfl⟩ | ⟨x, w, k, rfl⟩ | ⟨-, w, r, rfl⟩
  · exact .of_unchanged {} rfl id
  · exact .of_unchanged {} rfl (setVar_sorted x w)
  · exact (writeReg_agentMove s w r).advance

theorem hostStep_agentMove {s t : State} (h : hostStep s = .next t) : AgentMove s t := by
  unfold hostStep at h
  split at h
  · exact execStmt_agentMove h
  · cases h; exact .of_unchanged {} rfl id

/-- What one clock cycle can leave (10_state.md R20, R39, 70_reset_and_hazards.md R250). -/
inductive ClockEffect (s t : State) : Prop where
  | reset (asserted : s.resetLine = true) (eq : t = resetBlock s)
  | completed (busy : s.status.busy = true) (due : s.cnt ≤ 1) (r q : Wide) (e : ErrCode)
      (completes : completeCommand s = .next t) (eq : t = complete r q e s)
  | counted (busy : s.status.busy = true) (early : 2 ≤ s.cnt) (eq : t = { s with cnt := s.cnt - 1 })
  | idle (eq : t = s)

theorem clockTick_effect {s t : State} (h : clockTick s = .next t) : ClockEffect s t := by
  rcases clockTick_cases s with ⟨hl, hc⟩ | ⟨-, hb, hd, hc⟩ | ⟨-, hb, hd, hc⟩ | ⟨-, -, hc⟩ <;> rw [hc] at h
  · cases h; exact .reset hl rfl
  · obtain ⟨r, q, e, he⟩ := completeCommand_completes s
    exact .completed hb hd r q e h (by simpa [h] using he)
  · cases h; exact .counted hb hd rfl
  · cases h; exact .idle rfl

/-- Whether the next move is a clock cycle: a listed one, or none listed (log entry 2). -/
def NextIsTick (s : State) : Prop := s.inputs = [] ∨ s.inputs.head? = some .tick

/-- Everything a step can do, with its move taken off the list. -/
theorem step_effect {s t : State} (h : step s = .next t) :
    ∃ rest, let s' : State := { s with inputs := rest }
      (NextIsTick s ∧ ClockEffect s' t) ∨ AgentMove s' t ∨ ∃ b, t = { s' with resetLine := b } := by
  obtain ⟨rest, hmove⟩ := step_cases h
  refine ⟨rest, ?_⟩
  rcases hmove with ⟨hin, hTick⟩ | ⟨-, rfl | ⟨c, hHost⟩⟩ | ⟨a, -, hBus⟩ | ⟨b, -, rfl⟩
  · exact .inl ⟨hin.imp_right fun h => by rw [h]; rfl, clockTick_effect hTick⟩
  · exact .inr (.inl (.of_unchanged {} rfl id))
  · exact .inr (.inl (execStmt_agentMove hHost))
  · exact .inr (.inl (busAccess_agentMove hBus))
  · exact .inr (.inr ⟨b, rfl⟩)

/-! ## The invariant -/

theorem varsSorted_of_inv {s : State} (hi : Inv s) : varsSorted s.vars = true := by
  obtain ⟨-, -, -, -, hv⟩ := hi
  exact hv

/-- The invariant speaks of the command and of the host's variables alone. -/
theorem SameCommand.inv {s t : State} (h : SameCommand s t) (hv : varsSorted t.vars = true) (hi : Inv s) : Inv t := by
  obtain ⟨exclusive, whileBusy, whileDone, whileIdle, -⟩ := hi
  unfold HoldsResultOfCommand at whileDone
  unfold Claims.Inv HoldsResultOfCommand
  rw [h.status, h.cnt, h.params, h.lcmd, h.la, h.lb, h.res, h.rem]
  exact ⟨exclusive, whileBusy, whileDone, whileIdle, hv⟩

theorem acceptCommand_inv (w : Word) {s : State} (hv : varsSorted s.vars = true) : Inv (acceptCommand w s) :=
  ⟨by simp, fun _ => ⟨rfl, latency_pos _ _, le_rfl, rfl⟩, by simp, by simp, hv⟩

theorem dropCommand_inv {s : State} (busy : s.status.busy = true) (hi : Inv s) : Inv (dropCommand s) := by
  obtain ⟨exclusive, whileBusy, whileDone, -, hv⟩ := hi
  exact ⟨exclusive, whileBusy, whileDone, fun idle => by simp [busy] at idle, hv⟩

theorem resetBlock_inv {s : State} (hv : varsSorted s.vars = true) : Inv (resetBlock s) :=
  ⟨by simp, by simp, by simp, fun _ _ => rfl, hv⟩

/-- A completion leaves results of the command it completes, and OP as acceptance left it. -/
theorem complete_inv {s : State} {r q : Wide} {e : ErrCode} (busy : s.status.busy = true) (hi : Inv s)
    (hc : completeCommand s = .next (complete r q e s)) : Inv (complete r q e s) := by
  obtain ⟨-, whileBusy, -, -, hv⟩ := hi
  obtain ⟨-, -, -, hop⟩ := whileBusy busy
  exact ⟨by simp, by simp, fun _ => ⟨hop, s, _, rfl, rfl, rfl, rfl, hc, rfl, rfl, rfl⟩, by simp, hv⟩

theorem countDown_inv {s : State} (busy : s.status.busy = true) (early : 2 ≤ s.cnt) (hi : Inv s) :
    Inv { s with cnt := s.cnt - 1 } := by
  obtain ⟨exclusive, whileBusy, whileDone, whileIdle, hv⟩ := hi
  obtain ⟨herr, -, hlat, hop⟩ := whileBusy busy
  exact ⟨exclusive, fun _ => ⟨herr, Nat.le_sub_of_add_le early, (Nat.sub_le _ _).trans hlat, hop⟩, whileDone, whileIdle, hv⟩

theorem ClockEffect.inv {s t : State} (h : ClockEffect s t) (hi : Inv s) : Inv t := by
  have hv := varsSorted_of_inv hi
  cases h with
  | reset _ eq => exact eq ▸ resetBlock_inv hv
  | completed busy _ r q e completes eq => subst eq; exact complete_inv busy hi completes
  | counted busy early eq => exact eq ▸ countDown_inv busy early hi
  | idle eq => exact eq ▸ hi

theorem AgentMove.inv {s t : State} (h : AgentMove s t) (hi : Inv s) : Inv t := by
  have hv := varsSorted_of_inv hi
  cases h.effect with
  | unchanged same => exact same.inv (h.vars hv) hi
  | accepted w _ same => exact same.inv (h.vars hv) (acceptCommand_inv w hv)
  | dropped busy same => exact same.inv (h.vars hv) (dropCommand_inv busy hi)

/-- Settles O13: a clock cycle, a move of the host or of another master, and a level of the reset input each keep the
invariant. -/
theorem stepKeepsTheInvariant : Obligations.StepKeepsTheInvariant := by
  intro s t hi h
  obtain ⟨rest, hmove⟩ := step_effect h
  have hi' : Inv { s with inputs := rest } := hi
  rcases hmove with ⟨-, hclock⟩ | hagent | ⟨b, rfl⟩
  · exact hclock.inv hi'
  · exact hagent.inv hi'
  · exact hi'

end Sys2Proof.Machine
end

section
/-! Consequences for a run: which step changes results or DROP (10_state.md R23, R30), the countdown (R39), and that nothing
between acceptance and completion touches the command in flight (R24, R38). -/

namespace Sys2Proof.Machine

open Sys2Proof.Claims

/-! ## Results -/

theorem AgentMove.keeps_results {s t : State} (h : AgentMove s t) : t.res = s.res ∧ t.rem = s.rem := by
  cases h.effect with
  | unchanged same => exact ⟨same.res, same.rem⟩
  | accepted w _ same => exact ⟨same.res, same.rem⟩
  | dropped _ same => exact ⟨same.res, same.rem⟩

/-- A clock cycle that is neither a reset nor the last cycle of a command leaves the results. -/
theorem ClockEffect.keeps_results {s t : State} (h : ClockEffect s t) :
    (t.res = s.res ∧ t.rem = s.rem) ∨ s.resetLine = true ∨ (s.status.busy = true ∧ s.cnt ≤ 1) := by
  cases h with
  | reset asserted _ => exact .inr (.inl asserted)
  | completed busy due => exact .inr (.inr ⟨busy, due⟩)
  | counted _ _ eq => subst eq; exact .inl ⟨rfl, rfl⟩
  | idle eq => subst eq; exact .inl ⟨rfl, rfl⟩

/-- Settles O14: accesses and levels of the reset input keep the results, and so does every clock cycle but a reset and a
command's last one. -/
theorem resultsChangeOnlyAtCompletionOrReset : Obligations.ResultsChangeOnlyAtCompletionOrReset := by
  intro s t h changed
  have not_kept : ¬(t.res = s.res ∧ t.rem = s.rem) := by tauto
  obtain ⟨rest, ⟨hin, hclock⟩ | hagent | ⟨b, rfl⟩⟩ := step_effect h
  · exact ⟨hin, hclock.keeps_results.resolve_left not_kept⟩
  · exact absurd hagent.keeps_results not_kept
  · exact absurd ⟨rfl, rfl⟩ not_kept

/-! ## CMD writes and DROP -/

/-- The reset is the only clock cycle that clears DROP. -/
theorem ClockEffect.keeps_drop {s t : State} (h : ClockEffect s t) :
    t.status.drop = s.status.drop ∨ s.resetLine = true := by
  cases h with
  | reset asserted _ => exact .inr asserted
  | completed _ _ _ _ _ _ eq => subst eq; exact .inl rfl
  | counted _ _ eq => subst eq; exact .inl rfl
  | idle eq => exact .inl (by rw [eq])

/-- Acceptance is the only access that clears DROP. -/
theorem AgentMove.clears_drop {s t : State} (h : AgentMove s t) (before : s.status.drop = true)
    (after : t.status.drop = false) :
    s.status.busy = false ∧ t.status = Status.accepted (t.lcmd.extractLsb' 0 8) := by
  cases h.effect with
  | unchanged same => rw [same.status, before] at after; cases after
  | accepted w idle same => exact ⟨idle, by rw [same.status, same.lcmd]; rfl⟩
  | dropped _ same => rw [same.status] at after; cases after

/-- A CMD write (10_state.md R26), on a block that answers accesses. -/
theorem windowWrite_cmd {s : State} (w : Word) (h : Accessible s) : windowWrite 0x040 4 w s = .next (writeCmd w s) :=
  windowWrite_of_accessible h.1 h.2 rfl

theorem writeCmd_busy {s : State} (w : Word) (busy : s.status.busy = true) : writeCmd w s = dropCommand s := if_pos busy

theorem writeCmd_idle {s : State} (w : Word) (idle : s.status.busy = false) : writeCmd w s = acceptCommand w s := by
  simp [writeCmd, idle]

/-- Settles O5: the write reaches CMD, and an idle block accepts it. -/
theorem acceptanceLatchesTheOperands : Obligations.AcceptanceLatchesTheOperands := by
  intro w s hs idle
  refine ⟨latency_pos _ _, ?_⟩
  rw [windowWrite_cmd w hs, writeCmd_idle w idle]
  rfl

/-- Settles O6: the write reaches CMD, and a busy block drops it. -/
theorem commandWhileBusyIsDropped : Obligations.CommandWhileBusyIsDropped := by
  intro w s hs busy
  rw [windowWrite_cmd w hs, writeCmd_busy w busy, dropCommand, Status.dropped, busy]

/-- Settles O15: the drop sets DROP, acceptance and reset clear it, and no other move does. -/
theorem dropIsSticky : Obligations.DropIsSticky := by
  refine ⟨fun w s hs busy => ?_, fun w s hs idle => ?_, fun s asserted => ?_, fun s t h before after => ?_⟩
  · exact ⟨dropCommand s, by rw [windowWrite_cmd w hs, writeCmd_busy w busy], rfl⟩
  · exact ⟨acceptCommand w s, by rw [windowWrite_cmd w hs, writeCmd_idle w idle], rfl⟩
  · exact ⟨resetBlock s, if_pos asserted, rfl⟩
  · obtain ⟨rest, ⟨hin, hclock⟩ | hagent | ⟨b, rfl⟩⟩ := step_effect h
    · rcases hclock.keeps_drop with same | asserted
      · rw [same, show _ = true from before] at after; cases after
      · exact .inl ⟨asserted, hin⟩
    · exact .inr (hagent.clears_drop before after)
    · rw [show _ = true from before] at after; cases after

/-! ## The clock -/

theorem clockTick_idle {s : State} (released : s.resetLine = false) (idle : s.status.busy = false) :
    clockTick s = .next s := by simp [clockTick, due, released, idle]

theorem clockTick_counts {s : State} (released : s.resetLine = false) (busy : s.status.busy = true) (early : 2 ≤ s.cnt) :
    clockTick s = .next { s with cnt := s.cnt - 1 } := by
  have not_due : ¬s.cnt ≤ 1 := Nat.not_le.2 early
  simp [clockTick, due, released, busy, not_due]

theorem clockTick_due {s : State} (released : s.resetLine = false) (busy : s.status.busy = true) (last : s.cnt ≤ 1) :
    clockTick s = completeCommand s := by simp [clockTick, due, released, busy, last]

/-- The last cycle of a legal command is exec of that command (10_state.md R40). -/
theorem clockTick_due_of_decode {s : State} {i : Instr} (released : s.resetLine = false) (busy : s.status.busy = true)
    (last : s.cnt ≤ 1) (hdec : decode s.lcmd = .ok i) : clockTick s = exec i s := by
  rw [clockTick_due released busy last, completeCommand]
  simp only [hdec]

/-- Settles O7: the move is a clock cycle, listed or not, and that cycle is the command's last. -/
theorem stepCompletesTheDecodedCommand : Obligations.StepCompletesTheDecodedCommand := by
  intro s i rest released busy last hdec
  refine ⟨fun hin => ?_, fun hin => ?_⟩
  · exact (step_listed hin).trans
      (clockTick_due_of_decode (s := { s with inputs := rest }) released busy last hdec)
  · exact (step_unlisted hin).trans (clockTick_due_of_decode released busy last hdec)

/-- Settles O29: `applyInput`, one equation for each kind of move. -/
theorem stepCarriesOutTheListedMove : Obligations.StepCarriesOutTheListedMove := by
  intro s rest s'
  refine ⟨fun hin => ⟨fun line hline => ?_, fun hend => ?_⟩, fun a hin => step_listed hin, fun b hin => step_listed hin,
    fun hin => step_listed hin, step_unlisted⟩
  · rw [step_listed hin, applyInput, hostStep]
    simp only [hline]
    rfl
  · rw [step_listed hin, applyInput, hostStep]
    simp only [List.getElem?_eq_none hend]
    rfl

/-! ## The countdown -/

/-- Left to its clock, a busy block only counts down before its last cycle. -/
theorem run_counts (k : Nat) {s : State} (released : s.resetLine = false) (busy : s.status.busy = true)
    (unlisted : s.inputs = []) (early : k < s.cnt) : Host.Core.run core k s = .next { s with cnt := s.cnt - k } := by
  induction k generalizing s with
  | zero => rfl
  | succ k ih =>
    have hstep : step s = .next { s with cnt := s.cnt - 1 } := by
      rw [step_unlisted unlisted, clockTick_counts released busy (by omega)]
    rw [run_next k hstep, ih (s := { s with cnt := s.cnt - 1 }) released busy unlisted (Nat.lt_sub_of_add_lt early)]
    simp only [Nat.sub_sub, Nat.add_comm 1 k]

/-- A run of one step is that step. -/
theorem run_one (s : State) : Host.Core.run core 1 s = step s := by
  change Host.Core.run core (0 + 1) s = core.step s
  cases h : core.step s <;> simp only [Host.Core.run, h]

/-- Left to its clock, a busy block completes in the cycle in which CNT would reach 0. -/
theorem run_completes {n : Nat} {s : State} (released : s.resetLine = false) (busy : s.status.busy = true)
    (unlisted : s.inputs = []) (hn : s.cnt = n + 1) :
    Host.Core.run core (n + 1) s = completeCommand { s with cnt := 1 } := by
  induction n generalizing s with
  | zero =>
    have hs : { s with cnt := 1 } = s := by rw [← show s.cnt = 1 from hn]
    rw [run_one, step_unlisted unlisted, clockTick_due released busy hn.le, hs]
  | succ n ih =>
    have hstep : step s = .next { s with cnt := s.cnt - 1 } := by
      rw [step_unlisted unlisted, clockTick_counts released busy (by omega)]
    rw [run_next (n + 1) hstep]
    exact ih (s := { s with cnt := s.cnt - 1 }) released busy unlisted (by simp [hn])

/-- Settles O10: one cycle at a time, then by induction on the cycles left. -/
theorem countdownEndsInCompletion : Obligations.CountdownEndsInCompletion := by
  refine fun s released => ⟨clockTick_idle released, clockTick_counts released, fun k busy unlisted hpos => ⟨?_, ?_⟩⟩
  · exact run_counts k released busy unlisted
  · obtain ⟨n, hn⟩ := Nat.exists_eq_succ_of_ne_zero (Nat.one_le_iff_ne_zero.1 hpos)
    rw [hn]
    exact run_completes released busy unlisted hn

/-! ## The command in flight -/

/-- The command in flight in s is still in flight in t, whatever became of CNT and DROP. -/
structure StillInFlight (s t : State) : Prop where
  la : t.la = s.la := by rfl
  lb : t.lb = s.lb := by rfl
  lcmd : t.lcmd = s.lcmd := by rfl
  params : t.params = s.params := by rfl
  draws : t.draws = s.draws := by rfl
  resetLine : t.resetLine = s.resetLine := by rfl
  busy : t.status.busy = s.status.busy := by rfl
  op : t.status.op = s.status.op := by rfl

theorem StillInFlight.trans {s t u : State} (h : StillInFlight s t) (h' : StillInFlight t u) : StillInFlight s u where
  la := h'.la.trans h.la
  lb := h'.lb.trans h.lb
  lcmd := h'.lcmd.trans h.lcmd
  params := h'.params.trans h.params
  draws := h'.draws.trans h.draws
  resetLine := h'.resetLine.trans h.resetLine
  busy := h'.busy.trans h.busy
  op := h'.op.trans h.op

theorem SameCommand.stillInFlight {s t : State} (h : SameCommand s t) : StillInFlight s t :=
  { h with busy := by rw [h.status], op := by rw [h.status] }

/-- Accesses of a busy block leave the command in flight, and its countdown. -/
theorem AgentMove.stillInFlight {s t : State} (h : AgentMove s t) (busy : s.status.busy = true) :
    StillInFlight s t ∧ t.cnt = s.cnt := by
  cases h.effect with
  | unchanged same => exact ⟨same.stillInFlight, same.cnt⟩
  | accepted w idle _ => rw [busy] at idle; cases idle
  | dropped _ same => exact ⟨StillInFlight.trans {} same.stillInFlight, same.cnt⟩

/-- The results of a completion depend on the command in flight alone (10_state.md R40). -/
theorem StillInFlight.completeCommand_eq {s t : State} (h : StillInFlight s t) :
    ∃ (r q : Wide) (e : ErrCode),
      completeCommand s = .next (complete r q e s) ∧ completeCommand t = .next (complete r q e t) := by
  unfold completeCommand
  rw [h.lcmd]
  cases decode s.lcmd with
  | ok i => exact exec_reads i s t h.la h.lb h.params h.draws
  | error x => exact ⟨_, _, _, rfl, rfl⟩

/-- A listed move other than a level of the reset input, made while a command is in flight and not in its last cycle,
leaves it in flight; only a clock cycle lowers CNT. -/
theorem step_stillInFlight {s t : State} {x : Input} {l : List Input} (released : s.resetLine = false)
    (busy : s.status.busy = true) (hin : s.inputs = x :: l) (noReset : ∀ b, x ≠ .resetLine b)
    (early : x = .tick → 2 ≤ s.cnt) (h : step s = .next t) :
    StillInFlight s t ∧ t.inputs = l ∧ t.cnt + [x].count .tick = s.cnt := by
  rw [step_listed hin] at h
  have of_agentMove (hm : AgentMove { s with inputs := l } t) (hx : [x].count .tick = 0) :
      StillInFlight s t ∧ t.inputs = l ∧ t.cnt + [x].count .tick = s.cnt := by
    obtain ⟨hflight, hcnt⟩ := hm.stillInFlight busy
    exact ⟨StillInFlight.trans {} hflight, hm.inputs, by rw [hx]; exact hcnt⟩
  cases x with
  | tick =>
    have hcounts := clockTick_counts (s := { s with inputs := l }) released busy (early rfl)
    cases hcounts.symm.trans h
    exact ⟨{}, rfl, Nat.sub_add_cancel (Nat.le_of_lt (early rfl))⟩
  | host => exact of_agentMove (hostStep_agentMove h) rfl
  | bus a => exact of_agentMove (busAccess_agentMove h) rfl
  | resetLine b => exact absurd rfl (noReset b)

/-- A run through moves that leave the reset input alone, up to the completing cycle, completes the command it found in
flight. -/
theorem run_completes_command_in_flight {pre rest : List Input} {s t : State} (released : s.resetLine = false)
    (busy : s.status.busy = true) (hin : s.inputs = pre ++ .tick :: rest) (hcnt : pre.count .tick + 1 = s.cnt)
    (noReset : ∀ b : Bool, Input.resetLine b ∉ pre) (h : Host.Core.run core (pre.length + 1) s = .next t) :
    ∃ u, StillInFlight s u ∧ u.inputs = rest ∧ completeCommand u = .next t := by
  induction pre generalizing s with
  | nil =>
    have last : s.cnt ≤ 1 := by simp [← hcnt]
    rw [List.length_nil, run_one, step_listed hin] at h
    exact ⟨_, {}, rfl, (clockTick_due (s := { s with inputs := rest }) released busy last).symm.trans h⟩
  | cons x pre ih =>
    obtain ⟨u, hstep, hrun⟩ := run_succ_next h
    have hcons : (x :: pre).count .tick = [x].count .tick + pre.count .tick := List.count_append (l₁ := [x])
    have early (hx : x = .tick) : 2 ≤ s.cnt := by rw [← hcnt, hx, List.count_cons_self]; omega
    obtain ⟨hflight, hinputs, hcount⟩ := step_stillInFlight released busy hin
      (fun b hx => noReset b (hx ▸ List.mem_cons_self)) early hstep
    obtain ⟨v, hv, hrest, hdone⟩ := ih (hflight.resetLine.trans released) (hflight.busy.trans busy) hinputs (by omega)
      (fun b hb => noReset b (List.mem_cons_of_mem x hb)) hrun
    exact ⟨v, hflight.trans hv, hrest, hdone⟩

/-- Settles O11: the command is still in flight when its last cycle comes, and a completion depends on nothing else. -/
theorem resultIsFixedAtAcceptance : Obligations.ResultIsFixedAtAcceptance := by
  intro s t pre rest released busy hin hcnt noReset h
  obtain ⟨u, hflight, hrest, hdone⟩ := run_completes_command_in_flight released busy hin hcnt noReset h
  obtain ⟨r, q, e, hs, hu⟩ := hflight.completeCommand_eq
  rw [hu] at hdone
  cases hdone
  exact ⟨complete r q e s, hs, rfl, rfl, rfl, rfl, rfl, hflight.op, hflight.lcmd, hflight.la, hflight.lb, hrest⟩

end Sys2Proof.Machine
end

section
/-! The register window (10_state.md R21, R24, R25, R35): the register at each offset, the bits a word write sets, and the
STATUS word (R27). -/

namespace Sys2Proof.Machine

open Sys2Proof.Claims

/-! ## Words of a register -/

/-- Bit k of a register after a write of its word i (10_state.md R24). -/
theorem getLsbD_setWordAt (v : Wide) (i : BitVec 3) (w : Word) {k : Nat} (hk : k < 256) :
    (setWordAt v i w).getLsbD k =
      if 32 * i.toNat ≤ k ∧ k < 32 * i.toNat + 32 then w.getLsbD (k - 32 * i.toNat) else v.getLsbD k := by
  have inRegister : k - 32 * i.toNat < 256 := by omega
  simp only [setWordAt, BitVec.getLsbD_or, BitVec.getLsbD_and, BitVec.getLsbD_not, BitVec.getLsbD_shiftLeft,
    BitVec.getLsbD_setWidth, BitVec.getLsbD_allOnes, hk, inRegister]
  rcases Nat.lt_or_ge k (32 * i.toNat) with below | above
  · simp [below, Nat.not_le.2 below]
  · rcases Nat.lt_or_ge k (32 * i.toNat + 32) with inWord | beyond
    · have inWord' : k - 32 * i.toNat < 32 := by omega
      simp [above, inWord, inWord', Nat.not_lt.2 above]
    · have beyond' : 32 ≤ k - 32 * i.toNat := by omega
      simp [above, Nat.not_lt.2 above, Nat.not_lt.2 beyond, Nat.not_lt.2 beyond', BitVec.getLsbD_of_ge w _ beyond']

/-- A word reads as it was written. -/
theorem wordAt_setWordAt (v : Wide) (i : BitVec 3) (w : Word) : wordAt (setWordAt v i w) i = w := by
  ext k hk
  have hi : 32 * i.toNat + k < 256 := by omega
  rw [wordAt, BitVec.getElem_extractLsb', getLsbD_setWordAt v i w hi, if_pos (by omega), Nat.add_sub_cancel_left,
    BitVec.getLsbD_eq_getElem hk]

theorem toNat_ofNat_three {i : Nat} (hi : i < 8) : (BitVec.ofNat 3 i).toNat = i :=
  Nat.mod_eq_of_lt hi

theorem wordAt_ofNat (v : Wide) {i : Nat} (hi : i < 8) : wordAt v (BitVec.ofNat 3 i) = v.extractLsb' (32 * i) 32 := by
  rw [wordAt, toNat_ofNat_three hi]

/-! ## The register at an offset -/

/-- Word i of each register group (10_state.md R21). -/
theorem regAt_wordOff : ∀ i < 8,
    regAt (wordOff 0x000 i) = .opa (BitVec.ofNat 3 i) ∧ regAt (wordOff 0x020 i) = .opb (BitVec.ofNat 3 i) ∧
    regAt (wordOff 0x080 i) = .res (BitVec.ofNat 3 i) ∧ regAt (wordOff 0x0A0 i) = .rem (BitVec.ofNat 3 i) := by
  decide

/-- Every register's offset is a multiple of 4. -/
theorem wordOff_aligned : ∀ i < 8, ∀ start ∈ [0x000, 0x020, 0x080, 0x0A0], (wordOff start i).toNat % 4 = 0 := by decide

/-- The reserved offsets (10_state.md R35): those of the third group past STATUS, and every group but OPA, OPB, CMD and
STATUS's, RES and REM. -/
theorem regAt_reserved {off : Offset} (aligned : off.toNat % 4 = 0)
    (h : (0x048 ≤ off.toNat ∧ off.toNat ≤ 0x07C) ∨ (0x0C0 ≤ off.toNat ∧ off.toNat ≤ 0xFFC)) : regAt off = .reserved := by
  have group : (off.extractLsb' 5 7).toNat = off.toNat / 32 := by
    simp only [BitVec.extractLsb'_toNat, Nat.shiftRight_eq_div_pow]
    omega
  have index : (off.extractLsb' 2 3).toNat = off.toNat / 4 % 8 := by
    simp only [BitVec.extractLsb'_toNat, Nat.shiftRight_eq_div_pow]
  unfold regAt
  rw [group]
  split
  case h_3 thirdGroup =>
    have not_index {j : BitVec 3} (hj : j.toNat < 2) : (off.extractLsb' 2 3 == j) = false := by
      rw [beq_eq_false_iff_ne]
      rintro rfl
      omega
    simp only [not_index (j := 0) (by decide), not_index (j := 1) (by decide)]
    rfl
  case h_6 => rfl
  all_goals omega

theorem windowRead_eq {s : State} {off : Offset} {r : Reg} (hs : Accessible s) (aligned : off.toNat % 4 = 0)
    (hr : regAt off = r) : windowRead off 4 s = .ok (readReg s r) := hr ▸ windowRead_of_accessible hs.1 hs.2 aligned

theorem windowWrite_eq {s : State} {off : Offset} {r : Reg} (w : Word) (hs : Accessible s) (aligned : off.toNat % 4 = 0)
    (hr : regAt off = r) : windowWrite off 4 w s = .next (writeReg s w r) :=
  hr ▸ windowWrite_of_accessible hs.1 hs.2 aligned

/-- A register whose word reads as written reads so through the window. -/
theorem windowWrite_reads_back {s : State} {off : Offset} {r : Reg} {w : Word} (hs : Accessible s)
    (aligned : off.toNat % 4 = 0) (hr : regAt off = r) (after : Accessible (writeReg s w r))
    (back : readReg (writeReg s w r) r = w) :
    ∃ t, windowWrite off 4 w s = .next t ∧ windowRead off 4 t = .ok w :=
  ⟨_, windowWrite_eq w hs aligned hr, by rw [windowRead_eq after aligned hr, back]⟩

/-- Settles O17: the offset is that of the word, and a word write sets the word's bits. -/
theorem operandWordWriteSetsItsBitsOnly : Obligations.OperandWordWriteSetsItsBitsOnly := by
  intro i w s hi hs
  obtain ⟨atOpa, atOpb, -, -⟩ := regAt_wordOff i hi
  have opaAligned : (wordOff 0x000 i).toNat % 4 = 0 := wordOff_aligned i hi _ (by decide)
  have opbAligned : (wordOff 0x020 i).toNat % 4 = 0 := wordOff_aligned i hi _ (by decide)
  have bits (v : Wide) : ∀ k < 256, (setWordAt v (BitVec.ofNat 3 i) w).getLsbD k =
      if 32 * i ≤ k ∧ k < 32 * i + 32 then w.getLsbD (k - 32 * i) else v.getLsbD k := by
    intro k hk
    rw [getLsbD_setWordAt v _ w hk, toNat_ofNat_three hi]
  refine ⟨⟨_, windowWrite_eq w hs opaAligned atOpa, bits s.opa⟩, ⟨_, windowWrite_eq w hs opbAligned atOpb, bits s.opb⟩,
    ?_, ?_⟩
  · rw [windowRead_eq hs opaAligned atOpa, readReg, wordAt_ofNat _ hi]
  · rw [windowRead_eq hs opbAligned atOpb, readReg, wordAt_ofNat _ hi]

/-- Settles O18: each offset's register, what it reads and what a write of it does. -/
theorem windowFollowsTheRegisterMap : Obligations.WindowFollowsTheRegisterMap := by
  intro s w hs
  refine ⟨fun i hi => ?_, windowRead_eq (r := .cmd) hs rfl rfl, ⟨_, windowWrite_cmd w hs⟩,
    windowRead_eq (r := .status) hs rfl rfl, windowWrite_eq (r := .status) w hs rfl rfl, fun off aligned h => ?_⟩
  · obtain ⟨atOpa, atOpb, atRes, atRem⟩ := regAt_wordOff i hi
    have aligned := wordOff_aligned i hi
    have opaAligned := aligned 0x000 (by decide)
    have opbAligned := aligned 0x020 (by decide)
    have resAligned := aligned 0x080 (by decide)
    have remAligned := aligned 0x0A0 (by decide)
    simp only [← wordAt_ofNat _ hi]
    refine ⟨windowRead_eq hs opaAligned atOpa, windowRead_eq hs opbAligned atOpb, windowRead_eq hs resAligned atRes,
      windowRead_eq hs remAligned atRem, windowWrite_reads_back hs opaAligned atOpa hs (wordAt_setWordAt _ _ w),
      windowWrite_reads_back hs opbAligned atOpb hs (wordAt_setWordAt _ _ w), windowWrite_eq w hs resAligned atRes,
      windowWrite_eq w hs remAligned atRem⟩
  · have hr := regAt_reserved aligned h
    exact ⟨windowRead_eq hs aligned hr, windowWrite_eq w hs aligned hr⟩

/-! ## The STATUS word -/

/-- A concatenation as a number. -/
theorem toNat_append_eq_add {m n : Nat} (x : BitVec m) (y : BitVec n) :
    (x ++ y).toNat = x.toNat * 2 ^ n + y.toNat := by
  rw [BitVec.toNat_append, ← Nat.shiftLeft_add_eq_or_of_lt y.isLt, Nat.shiftLeft_eq]

/-- Settles O19: the word is a concatenation of its fields, so it is the sum of the fields at their places. -/
theorem statusWordHoldsItsFields : Obligations.StatusWordHoldsItsFields := by
  refine ⟨rfl, rfl, rfl, fun t => ⟨by cases t.err <;> decide, ?_⟩⟩
  simp only [Status.word, toNat_append_eq_add, BitVec.toNat_ofBool, BitVec.toNat_ofNat]
  omega

end Sys2Proof.Machine
end

section
/-! What every command does: the frame of a completion (10_state.md R42, 60_exceptions.md R230), and the operand bits its
results depend on (10_state.md R43). -/

namespace Sys2Proof.Machine

open Sys2Proof.Claims

/-! ## The frame of a completion -/

/-- The machine's completion is the one of the statements. -/
theorem gives_complete (r q : Wide) (e : ErrCode) (s : State) :
    Gives (.next (complete r q e s)) (completed s r.toNat q.toNat e) :=
  ⟨0, s.draws + 1, by simp only [completed, BitVec.ofNat_toNat, BitVec.setWidth_eq]; rfl⟩

theorem low_eq_zero_of_setWidth {n : Nat} {v : Wide} (h : v.setWidth n = 0) : low n v = 0 := by
  rw [low, ← BitVec.toNat_setWidth, h]
  exact BitVec.toNat_zero

/-- The command is a division and its divisor, in LB, is 0 (43_long_division.md R211). -/
def DividesByZero (i : Instr) (s : State) : Prop :=
  (i = .divU128 ∨ i = .modU128 ∨ i = .divremU128) ∧ low 128 s.lb = 0 ∨
    (i = .divU256 ∨ i = .modU256 ∨ i = .divremU256) ∧ low 256 s.lb = 0

/-- The outcome is a completion of the command's kind: only DIVREM has a second result, and the one error is DivideByZero,
of a division by 0, with zero results. -/
def FrameOf (i : Instr) (s : State) (o : Host.Outcome State Fault Refusal) : Prop :=
  ∃ (r q : Wide) (e : ErrCode), o = .next (complete r q e s) ∧ (q ≠ 0 → i = .divremU128 ∨ i = .divremU256) ∧
    (e ≠ .none → e = .divideByZero ∧ r = 0 ∧ q = 0 ∧ DividesByZero i s)

theorem frameOf_completeWith (i : Instr) {n : Nat} (r : BitVec n) (s : State) : FrameOf i s (.next (completeWith r s)) :=
  ⟨place r, 0, .none, rfl, by simp, by simp⟩

/-- A division command keeps the frame when its divisor and its second result are those of its kind. -/
theorem frameOf_divide {i : Instr} {W : Nat} {a b : BitVec W} {f g : BitVec W → BitVec W → BitVec W} {s : State}
    (second : (∀ x y, g x y = 0) ∨ i = .divremU128 ∨ i = .divremU256)
    (divisor : b = 0 → DividesByZero i s) : FrameOf i s (.next (divide a b f g s)) := by
  rcases divide_cases a b f g s with ⟨hb, h⟩ | ⟨-, h⟩ <;> rw [h]
  · exact ⟨0, 0, .divideByZero, rfl, by simp, fun _ => ⟨rfl, rfl, rfl, divisor hb⟩⟩
  · refine ⟨_, _, .none, rfl, fun hq => second.resolve_left fun hg => hq ?_, by simp⟩
    rw [hg]
    exact BitVec.setWidth_zero 256 W

/-- Every command keeps the frame of its kind. -/
theorem exec_frame (i : Instr) (s : State) : FrameOf i s (exec i s) := by
  have zero128 (hb : s.b128 = 0) : low 128 s.lb = 0 := low_eq_zero_of_setWidth hb
  have zero256 (hb : s.b256 = 0) : low 256 s.lb = 0 := low_eq_zero_of_setWidth (by rwa [BitVec.setWidth_eq])
  cases i
  case divU128 | modU128 =>
    exact frameOf_divide (.inl fun _ _ => rfl) fun hb => .inl ⟨by decide, zero128 hb⟩
  case divremU128 => exact frameOf_divide (.inr (.inl rfl)) fun hb => .inl ⟨by decide, zero128 hb⟩
  case divU256 | modU256 =>
    exact frameOf_divide (.inl fun _ _ => rfl) fun hb => .inr ⟨by decide, zero256 hb⟩
  case divremU256 => exact frameOf_divide (.inr (.inr rfl)) fun hb => .inr ⟨by decide, zero256 hb⟩
  all_goals exact frameOf_completeWith _ _ s

/-- Settles O32: the completion every command ends in, with its results as numbers. -/
theorem everyCommandCompletes : Obligations.EveryCommandCompletes := by
  intro i s
  obtain ⟨r, q, e, hexec, second, error⟩ := exec_frame i s
  refine ⟨r.toNat, q.toNat, e, hexec ▸ gives_complete r q e s, r.isLt, q.isLt, fun hq => second ?_, fun he => ?_⟩
  · rintro rfl
    exact hq rfl
  · obtain ⟨rfl, rfl, rfl, divisor⟩ := error he
    exact ⟨rfl, rfl, rfl, divisor⟩

/-! ## The operand bits a command reads -/

/-- Both outcomes are next states with the same RES, REM and STATUS. -/
def SameResults (o p : Host.Outcome State Fault Refusal) : Prop :=
  ∃ t u : State, o = .next t ∧ p = .next u ∧ u.res = t.res ∧ u.rem = t.rem ∧ u.status = t.status

theorem sameResults_complete {r q r' q' : Wide} {e : ErrCode} {s t : State} (hr : r' = r) (hq : q' = q)
    (hs : t.status = s.status) : SameResults (.next (complete r q e s)) (.next (complete r' q' e t)) :=
  ⟨_, _, rfl, rfl, hr, hq, by rw [complete_status, complete_status, hs]⟩

theorem sameResults_completeWith {n : Nat} {r r' : BitVec n} {s t : State} (hs : t.status = s.status) (hr : r' = r) :
    SameResults (.next (completeWith r s)) (.next (completeWith r' t)) :=
  sameResults_complete (congrArg place hr) rfl hs

theorem sameResults_divide {W : Nat} {a b a' b' : BitVec W} {f g : BitVec W → BitVec W → BitVec W} {s t : State}
    (hs : t.status = s.status) (ha : a' = a) (hb : b' = b) :
    SameResults (.next (divide a b f g s)) (.next (divide a' b' f g t)) := by
  subst ha hb
  unfold divide
  split
  · exact sameResults_complete rfl rfl hs
  · exact sameResults_complete rfl rfl hs

/-- Registers that agree in their low n bits agree as n-bit operands. -/
theorem setWidth_eq_of_low {n : Nat} {v v' : Wide} (h : low n v' = low n v) : v'.setWidth n = v.setWidth n :=
  BitVec.eq_of_toNat_eq (by simpa only [BitVec.toNat_setWidth, low] using h)

theorem eq_of_low {v v' : Wide} (h : low 256 v' = low 256 v) : v' = v := by
  simpa only [BitVec.setWidth_eq] using setWidth_eq_of_low h

/-- The results of a command depend on the operand bits it reads, the parameters and the draw alone (10_state.md R43). -/
theorem exec_reads_operandBits (i : Instr) {s t : State} (ha : low (operandBits i).1 t.la = low (operandBits i).1 s.la)
    (hb : low (operandBits i).2 t.lb = low (operandBits i).2 s.lb) (hp : t.params = s.params) (hd : t.draws = s.draws)
    (hs : t.status = s.status) : SameResults (exec i s) (exec i t) := by
  have hdraw : t.draw = s.draw := congrArg Config.freeBits hd
  cases i
  case divU128 | modU128 | divremU128 => exact sameResults_divide hs (setWidth_eq_of_low ha) (setWidth_eq_of_low hb)
  case divU256 | modU256 | divremU256 => exact sameResults_divide hs (eq_of_low ha) (eq_of_low hb)
  case fcvtQW | fcvtQWU | fcvtQS =>
    have ha : t.a32 = s.a32 := setWidth_eq_of_low ha
    exact sameResults_completeWith hs (by rw [hp, ha])
  case fcvtQL | fcvtQLU | fcvtQD =>
    have ha : t.a64 = s.a64 := setWidth_eq_of_low ha
    exact sameResults_completeWith hs (by rw [hp, ha])
  case fcvtQU128 | fclassQ | fcvtWQ | fcvtWUQ | fcvtLQ | fcvtLUQ | fcvtU128Q | fcvtU256Q | fcvtSQ | fcvtDQ | notU128
      | highbitU128 | lowbitU128 =>
    have ha : t.a128 = s.a128 := setWidth_eq_of_low ha
    exact sameResults_completeWith hs (by simp only [hp, hdraw, ha])
  case fcvtQU256 | notU256 | highbitU256 | lowbitU256 =>
    have ha : t.a256 = s.a256 := eq_of_low ha
    exact sameResults_completeWith hs (by simp only [hp, ha])
  case addU256 | subU256 | mulU256 | andU256 | orU256 | xorU256 | shlU256 | shrU256 | cmpuU256 =>
    have ha : t.a256 = s.a256 := eq_of_low ha
    have hb : t.b256 = s.b256 := eq_of_low hb
    exact sameResults_completeWith hs (by simp only [hp, ha, hb])
  all_goals
    have ha : t.a128 = s.a128 := setWidth_eq_of_low ha
    have hb : t.b128 = s.b128 := setWidth_eq_of_low hb
    exact sameResults_completeWith hs (by simp only [hp, hdraw, ha, hb])

/-- Settles O33: the two states differ in LA and LB alone, and there in bits the command does not read. -/
theorem bitsAboveTheOperandAreIgnored : Obligations.BitsAboveTheOperandAreIgnored := fun i s x y ha hb =>
  exec_reads_operandBits (s := s) (t := { s with la := x, lb := y }) i ha hb rfl rfl rfl

end Sys2Proof.Machine
end

section
/-! The memory view of the block (20_memory.md): little-endian words and register images (R53, R54), which accesses are
refused (R53, 70_reset_and_hazards.md R251), the window on the bus (R50), and operands loaded word by word (R52). -/

namespace Sys2Proof.Machine

open Sys2Proof.Claims

/-! ## Bytes of a command word -/

/-- A word is its four bytes, the lowest address in bits 7:0 (20_memory.md R53). -/
theorem wordOfBytes_byteLane (w : Word) :
    wordOfBytes (byteLane w 0) (byteLane w 1) (byteLane w 2) (byteLane w 3) = w := by
  refine BitVec.eq_of_toNat_eq ?_
  simp only [wordOfBytes, byteLane, toNat_append_eq_add, BitVec.extractLsb'_toNat, Nat.shiftRight_eq_div_pow]
  omega

/-- Decoding from bytes is decoding the word they hold (30_encoding.md R81). -/
theorem decodeBytes_bytesOfWord (w : Word) (rest : List Byte) :
    decodeBytes (bytesOfWord w ++ rest) = (decode w).map fun i => (i, rest) := by
  simp only [bytesOfWord, List.cons_append, List.nil_append, decodeBytes, wordOfBytes_byteLane]

theorem decode_encode (i : Instr) : decode (encode i) = .ok i := by cases i <;> rfl

/-- Settles O4: the four bytes hold the command's word, and that word decodes to the command. -/
theorem commandsDecodeFromTheirFourBytes : Obligations.CommandsDecodeFromTheirFourBytes := by
  intro i rest
  rw [decodeBytes_bytesOfWord, decode_encode, Except.map]

/-! ## Refused accesses -/

theorem windowWrite_of_refusal {s : State} {off : Offset} {n : Nat} {r : Refusal} (w : Word)
    (h : accessRefusal s off n = some r) : windowWrite off n w s = .refused r := by
  simp only [windowWrite, h]

theorem windowRead_of_refusal {s : State} {off : Offset} {n : Nat} {r : Refusal}
    (h : accessRefusal s off n = some r) : windowRead off n s = .error r := by
  simp only [windowRead, h]

theorem accessRefusal_of_undefined {s : State} {off : Offset} {n : Nat} (hs : s.wasReset = true)
    (undefined : n ≠ 4 ∨ off.toNat % 4 ≠ 0) : accessRefusal s off n = some .undefinedAccess := by
  have h : definedAccess off n = false := by
    rw [← Bool.not_eq_true, definedAccess_iff]
    tauto
  simp [accessRefusal, hs, h]

theorem accessRefusal_before_reset {s : State} (off : Offset) (n : Nat) (hs : s.wasReset = false) :
    accessRefusal s off n = some .accessBeforeReset := by
  simp [accessRefusal, hs]

/-- Settles O20: each ground gives its own refusal, and a write and a read are refused as `accessRefusal` says. -/
theorem undefinedAccessesAreRefused : Obligations.UndefinedAccessesAreRefused := by
  intro off n w s
  constructor
  · intro hs undefined
    have h := accessRefusal_of_undefined hs undefined
    exact ⟨windowWrite_of_refusal w h, windowRead_of_refusal h⟩
  · intro hs
    have h := accessRefusal_before_reset off n hs
    exact ⟨windowWrite_of_refusal w h, windowRead_of_refusal h⟩

/-! ## Register images -/

/-- Offsets in the same aligned word name the same register (20_memory.md R53). -/
theorem regAt_eq_of_same_word {off off' : Offset} (h : off.toNat / 4 = off'.toNat / 4) : regAt off = regAt off' := by
  have index : off.extractLsb' 2 3 = off'.extractLsb' 2 3 := by
    simp only [← BitVec.toNat_inj, BitVec.extractLsb'_toNat, Nat.shiftRight_eq_div_pow]
    omega
  have group : off.extractLsb' 5 7 = off'.extractLsb' 5 7 := by
    simp only [← BitVec.toNat_inj, BitVec.extractLsb'_toNat, Nat.shiftRight_eq_div_pow]
    omega
  unfold regAt
  rw [index, group]

/-- Byte k of word i of a register is byte 4i + k of the register. -/
theorem byteLane_wordAt (v : Wide) (i : BitVec 3) {k : Nat} (hk : k < 4) :
    byteLane (wordAt v i) k = v.extractLsb' (8 * (4 * i.toNat + k)) 8 := by
  ext m hm
  have inWord : 8 * k + m < 32 := by omega
  have bit : 32 * i.toNat + (8 * k + m) = 8 * (4 * i.toNat + k) + m := by omega
  simp only [byteLane, wordAt, BitVec.getElem_extractLsb', BitVec.getLsbD_extractLsb', inWord, decide_true,
    Bool.true_and, bit]

/-- Byte j of the image of a register whose words stand from `start` on (20_memory.md R54). -/
theorem windowByte_image {s : State} {start j : Nat} {v : Wide} (hj : j < 32) (aligned : start % 4 = 0)
    (word : readReg s (regAt (wordOff start (j / 4))) = wordAt v (BitVec.ofNat 3 (j / 4))) :
    windowByte s (BitVec.ofNat 12 (start + j)) = v.extractLsb' (8 * j) 8 := by
  have sameWord : regAt (BitVec.ofNat 12 (start + j)) = regAt (wordOff start (j / 4)) := by
    apply regAt_eq_of_same_word
    simp only [wordOff, BitVec.toNat_ofNat]
    omega
  have lane : ((BitVec.ofNat 12 (start + j)).extractLsb' 0 2).toNat = j % 4 := by
    simp only [BitVec.extractLsb'_toNat, BitVec.toNat_ofNat, Nat.shiftRight_zero]
    omega
  rw [windowByte, sameWord, word, lane, byteLane_wordAt v _ (Nat.mod_lt j (by decide)),
    toNat_ofNat_three (by omega : j / 4 < 8), Nat.div_add_mod]

/-- Settles O21: byte j lies in word j / 4, whose read is that word of the register. -/
theorem registerImagesAreLittleEndian : Obligations.RegisterImagesAreLittleEndian := by
  intro s j hj
  obtain ⟨atOpa, atOpb, atRes, atRem⟩ := regAt_wordOff (j / 4) (by omega)
  exact ⟨windowByte_image hj rfl (by rw [atOpa, readReg]), windowByte_image hj rfl (by rw [atOpb, readReg]),
    windowByte_image hj rfl (by rw [atRes, readReg]), windowByte_image hj rfl (by rw [atRem, readReg])⟩

/-! ## Loading an operand -/

/-- A register after the writes of its words 0 to n - 1, word i of `v` to word i. -/
def loadWords (v x : Wide) (n : Nat) : Wide :=
  (List.range n).foldl (fun y i => setWordAt y (BitVec.ofNat 3 i) (v.extractLsb' (32 * i) 32)) x

/-- The words written so far hold the value, the others what they held before. -/
theorem getLsbD_loadWords (v x : Wide) {n k : Nat} (hn : n ≤ 8) (hk : k < 256) :
    (loadWords v x n).getLsbD k = if k < 32 * n then v.getLsbD k else x.getLsbD k := by
  induction n with
  | zero => simp [loadWords]
  | succ n ih =>
    have lastWrite : loadWords v x (n + 1) =
        setWordAt (loadWords v x n) (BitVec.ofNat 3 n) (v.extractLsb' (32 * n) 32) := by
      simp only [loadWords, List.range_succ, List.foldl_append, List.foldl_cons, List.foldl_nil]
    rw [lastWrite, getLsbD_setWordAt _ _ _ hk, toNat_ofNat_three (by omega), ih (by omega)]
    rcases Nat.lt_or_ge k (32 * n) with before | after
    · rw [if_neg (by omega), if_pos before, if_pos (by omega)]
    · rcases Nat.lt_or_ge k (32 * n + 32) with written | beyond
      · have inWord : k - 32 * n < 32 := by omega
        rw [if_pos ⟨after, written⟩, if_pos (by omega), BitVec.getLsbD_extractLsb', Nat.add_sub_cancel' after]
        simp [inWord]
      · rw [if_neg (by omega), if_neg (by omega), if_neg (by omega)]

/-- All eight words are the whole register. -/
theorem loadWords_eight (v x : Wide) : loadWords v x 8 = v :=
  BitVec.eq_of_getLsbD_eq fun k hk => by rw [getLsbD_loadWords v x le_rfl hk, if_pos hk]

/-- The word writes to a register group load its register, when a write of word i sets that word of the register and
nothing else; `put` is the state as a function of that register. -/
theorem foldl_writeReg_eq_put {start : Nat} {reg : BitVec 3 → Reg} {put : Wide → State} (v x : Wide)
    (offsets : ∀ i < 8, regAt (wordOff start i) = reg (BitVec.ofNat 3 i))
    (write : ∀ y i w, writeReg (put y) w (reg i) = put (setWordAt y i w)) :
    (List.range 8).foldl (fun t i => writeReg t (v.extractLsb' (32 * i) 32) (regAt (wordOff start i))) (put x) = put v :=
  calc
    _ = (List.range 8).foldl (fun t i => writeReg t (v.extractLsb' (32 * i) 32) (reg (BitVec.ofNat 3 i))) (put x) :=
      List.foldl_ext _ _ _ fun t i hi => by rw [offsets i (List.mem_range.1 hi)]
    _ = put (loadWords v x 8) := List.foldl_hom put fun y i => write y _ _
    _ = put v := by rw [loadWords_eight]

/-- Settles O22: the offsets are those of the words of OPA and of OPB, and a word write sets its word there alone. -/
theorem eightWordWritesLoadAnOperand : Obligations.EightWordWritesLoadAnOperand := fun s v =>
  ⟨foldl_writeReg_eq_put (put := fun x => { s with opa := x }) v s.opa (fun i hi => (regAt_wordOff i hi).1)
      fun _ _ _ => rfl,
    foldl_writeReg_eq_put (put := fun x => { s with opb := x }) v s.opb (fun i hi => (regAt_wordOff i hi).2.1)
      fun _ _ _ => rfl⟩

/-! ## The window on the bus -/

theorem base_toNat (p : Params) : (base p).toNat = p.basePage.toNat * 0x1000 := by
  simp only [base, toNat_append_eq_add, BitVec.toNat_zero, Nat.add_zero, Nat.reducePow]

/-- The 4096 bytes from BASE are selected and no others (20_memory.md R50). -/
theorem selected_iff (p : Params) (addr : Word) :
    selected p addr = true ↔ (base p).toNat ≤ addr.toNat ∧ addr.toNat < (base p).toNat + 0x1000 := by
  simp only [selected, beq_iff_eq, ← BitVec.toNat_inj, BitVec.extractLsb'_toNat, Nat.shiftRight_eq_div_pow, base_toNat]
  omega

/-- The last byte of the window is a byte of the 32-bit address space. -/
theorem address_toNat (p : Params) (off : Offset) : (address p off).toNat = (base p).toNat + off.toNat := by
  simp only [address, BitVec.toNat_add, BitVec.toNat_setWidth, base_toNat]
  omega

theorem busAccess_write_address (s : State) (off : Offset) (n : Nat) (v : Word) :
    busAccess (.write (address s.params off) n v) s = windowWrite off n v s := by
  obtain ⟨isSelected, decoded⟩ := address_selects s.params off
  simp only [busAccess, isSelected, if_true, decoded]

theorem busAccess_read_refused {s : State} {off : Offset} {n : Nat} {r : Refusal} (h : windowRead off n s = .error r) :
    busAccess (.read (address s.params off) n) s = .refused r := by
  obtain ⟨isSelected, decoded⟩ := address_selects s.params off
  simp only [busAccess, isSelected, if_true, decoded, h]

/-- A read changes nothing (20_memory.md R58). -/
theorem busAccess_read_ok {s : State} {off : Offset} {n : Nat} {w : Word} (h : windowRead off n s = .ok w) :
    busAccess (.read (address s.params off) n) s = .next s := by
  obtain ⟨isSelected, decoded⟩ := address_selects s.params off
  simp only [busAccess, isSelected, if_true, decoded, h]

/-- An access outside the window is not the block's (log entry 15). -/
theorem busAccess_unselected {s : State} {addr : Word} (h : selected s.params addr = false) (n : Nat) (v : Word) :
    busAccess (.write addr n v) s = .next s ∧ busAccess (.read addr n) s = .next s := by
  simp [busAccess, h]

/-- Settles O23: BASE is its page followed by 12 zero bits, `BASE + OFF` decodes to OFF, and an address below BASE or past
the window is not selected. -/
theorem busAddressesSelectTheWindow : Obligations.BusAddressesSelectTheWindow := by
  intro s off addr n v
  refine ⟨by rw [base_toNat, Nat.mul_mod_left], address_toNat _ off, busAccess_write_address s off n v,
    fun _ h => busAccess_read_refused h, fun _ h => busAccess_read_ok h, fun outside => busAccess_unselected ?_ n v⟩
  rw [← Bool.not_eq_true, selected_iff]
  omega

end Sys2Proof.Machine
end

section
/-! Which words are commands (30_encoding.md R72, R74, R75, R82), and what the block does with a word that is none
(60_exceptions.md R231). -/

namespace Sys2Proof.Machine

open Sys2Proof.Claims

/-! ## The words that decode -/

/-- A command word has bits 31:8 zero and an OP of the table (30_encoding.md R82). -/
theorem decode_eq_ok_iff_decodeOp (w : Word) (i : Instr) :
    decode w = .ok i ↔ w.extractLsb' 8 24 = 0#24 ∧ decodeOp (w.extractLsb' 0 8) = some i := by
  unfold decode
  by_cases upper : w.extractLsb' 8 24 = 0#24
  · cases h : decodeOp (w.extractLsb' 0 8) <;> simp [upper]
  · simp [upper]

/-- The refused words, whatever the reason. -/
theorem decode_eq_error_iff_decodeOp (w : Word) :
    (∃ x, decode w = .error x) ↔ w.extractLsb' 8 24 ≠ 0#24 ∨ decodeOp (w.extractLsb' 0 8) = none := by
  unfold decode
  by_cases upper : w.extractLsb' 8 24 = 0#24
  · cases h : decodeOp (w.extractLsb' 0 8) <;> simp [upper]
  · simp [upper]

/-- `encode` and the table agree: the word of a row's command is the row's OP, zero-extended (30_encoding.md R72). -/
theorem encode_of_mem_opTable : ∀ row ∈ opTable, encode row.2 = 0#24 ++ row.1 := by decide

theorem encode_of_decodeOp {op : BitVec 8} {i : Instr} (h : decodeOp op = some i) : encode i = 0#24 ++ op := by
  obtain ⟨row, found, rfl⟩ := Option.map_eq_some_iff.1 h
  obtain rfl : row.1 = op := by simpa using List.find?_some found
  exact encode_of_mem_opTable row (List.mem_of_find?_eq_some found)

/-- A word is its bits 31:8 above its OP (30_encoding.md R70). -/
theorem upper_append_op (w : Word) : w.extractLsb' 8 24 ++ w.extractLsb' 0 8 = w := by
  refine BitVec.eq_of_toNat_eq ?_
  simp only [toNat_append_eq_add, BitVec.extractLsb'_toNat, Nat.shiftRight_eq_div_pow]
  omega

/-- Only a command's own word decodes to it. -/
theorem eq_encode_of_decode {w : Word} {i : Instr} (h : decode w = .ok i) : w = encode i := by
  obtain ⟨upper, row⟩ := (decode_eq_ok_iff_decodeOp w i).1 h
  calc
    w = w.extractLsb' 8 24 ++ w.extractLsb' 0 8 := (upper_append_op w).symm
    _ = encode i := by rw [encode_of_decodeOp row, upper]

/-- Settles O1: a command's word decodes by the command's row, and a row found gives back both halves of the word. -/
theorem decodeInvertsEncodeOnAllWords : Obligations.DecodeInvertsEncodeOnAllWords :=
  ⟨decode_encode, fun _ _ => eq_encode_of_decode⟩

/-! ## The words that do not -/

/-- The OPs of the table, as the four runs of R72. -/
theorem opTable_ops : opTable.map (fun row => row.1.toNat) =
    List.range' 0x10 5 ++ List.range' 0x20 16 ++ List.range' 0x40 15 ++ List.range' 0x50 15 := by decide

/-- The table has no row for an OP exactly when the OP is reserved (30_encoding.md R74). -/
theorem decodeOp_eq_none_iff (op : BitVec 8) : decodeOp op = none ↔ ReservedOp op.toNat := by
  have noRow : decodeOp op = none ↔ op.toNat ∉ opTable.map fun row => row.1.toNat := by
    simp [decodeOp, ← BitVec.toNat_inj]
  rw [noRow, opTable_ops]
  simp only [List.mem_append, List.mem_range'_1, ReservedOp]
  omega

/-- Settles O2: a word fails to decode by its upper bits or by an OP without a row. -/
theorem reservedWordsDecodeAsIllegal : Obligations.ReservedWordsDecodeAsIllegal := by
  intro w
  rw [decode_eq_error_iff_decodeOp, decodeOp_eq_none_iff]
  have upper : w.extractLsb' 8 24 = 0#24 ↔ w.toNat / 2 ^ 8 = 0 := by
    simp only [← BitVec.toNat_inj, BitVec.extractLsb'_toNat, Nat.shiftRight_eq_div_pow, BitVec.toNat_zero]
    omega
  have op : (w.extractLsb' 0 8).toNat = w.toNat % 2 ^ 8 := by
    rw [BitVec.extractLsb'_toNat, Nat.shiftRight_zero]
  rw [op, Ne, upper]

/-! ## An illegal word in flight -/

/-- The completion of an illegal word (60_exceptions.md R231). -/
theorem completeCommand_illegal {s : State} (illegal : IllegalWord s.lcmd) :
    completeCommand s = .next (complete 0 0 .illegalCommand s) := by
  obtain ⟨x, hx⟩ := (reservedWordsDecodeAsIllegal s.lcmd).2 illegal
  simp only [completeCommand, hx, raiseError]

/-- Settles O9: acceptance and countdown do not look at the word, and the completion of a word that does not decode takes
the error. -/
theorem illegalWordRunsToIllegalCommand : Obligations.IllegalWordRunsToIllegalCommand := by
  intro w s illegal accessible
  refine ⟨fun idle => (acceptanceLatchesTheOperands w s accessible idle).2, fun busy _ early => ?_, fun busy hw last => ?_⟩
  · exact clockTick_counts accessible.2 busy early
  · subst hw
    rw [clockTick_due accessible.2 busy last, completeCommand_illegal illegal]
    exact gives_complete 0 0 .illegalCommand s

end Sys2Proof.Machine
end

section
/-! The rounding function against 40_fp_arith.md R96 and R97: powers of two and quotients of naturals as rationals, the
format's fields as numbers (R91 to R94), and rounding to nearest even. -/

namespace Sys2Proof.Machine

open Sys2Proof.Claims

/-! ## The fields of a pattern -/

theorem signOf_eq (q : Quad) : signOf q = (sign q).toNat := by
  rw [signOf, sign, BitVec.getLsbD, Nat.toNat_testBit]
  omega

theorem expoOf_eq (q : Quad) : expoOf q = (expo q).toNat := by
  rw [expoOf, expo, BitVec.extractLsb'_toNat, Nat.shiftRight_eq_div_pow]

theorem fracOf_eq (q : Quad) : fracOf q = (frac q).toNat := by
  rw [fracOf, frac, BitVec.extractLsb'_toNat, Nat.shiftRight_zero]

theorem pack_eq_quad (s : Bool) (e : BitVec 15) (f : BitVec 112) : pack s e f = quad s.toNat e.toNat f.toNat := by
  apply BitVec.eq_of_toNat_eq
  simp only [pack, quad, toNat_append_eq_add, BitVec.toNat_ofBool, BitVec.toNat_ofNat]
  have hs := s.toNat_lt
  omega

/-! ## The exponent -/

/-- A power of two with an integer exponent, as a quotient of naturals. -/
theorem two_zpow_eq_div (e : ℤ) : (2 : ℚ) ^ e = (2 ^ e.toNat : Nat) / (2 ^ (-e).toNat : Nat) := by
  calc (2 : ℚ) ^ e = 2 ^ ((e.toNat : ℤ) - ((-e).toNat : ℤ)) := by rw [Int.toNat_sub_toNat_neg]
    _ = _ := by rw [zpow_sub₀ two_ne_zero, zpow_natCast, zpow_natCast, Nat.cast_pow, Nat.cast_pow, Nat.cast_two]

theorem two_zpow_pos (e : ℤ) : (0 : ℚ) < 2 ^ e := zpow_pos two_pos e

/-- The comparison `floorLog2` makes. -/
theorem scaled_le_iff {n d : Nat} (hd : 0 < d) (e : ℤ) :
    d * 2 ^ e.toNat ≤ n * 2 ^ (-e).toNat ↔ (2 : ℚ) ^ e ≤ n / d := by
  have hd' : (0 : ℚ) < d := Nat.cast_pos.2 hd
  rw [two_zpow_eq_div, div_le_div_iff₀ (by positivity) hd', mul_comm]
  exact_mod_cast Iff.rfl

/-- The lengths of n and d give the exponent of n/d up to one. -/
theorem two_zpow_log2_bounds {n d : Nat} (hn : 0 < n) (hd : 0 < d) :
    (2 : ℚ) ^ ((n.log2 : ℤ) - d.log2 - 1) ≤ n / d ∧ (n : ℚ) / d < 2 ^ ((n.log2 : ℤ) - d.log2 + 1) := by
  have bounds {x : Nat} (hx : 0 < x) : (2 : ℚ) ^ (x.log2 : ℤ) ≤ x ∧ (x : ℚ) < 2 ^ ((x.log2 : ℤ) + 1) :=
    ⟨mod_cast Nat.log2_self_le hx.ne', mod_cast Nat.lt_log2_self⟩
  obtain ⟨hn1, hn2⟩ := bounds hn
  obtain ⟨hd1, hd2⟩ := bounds hd
  have hd' : (0 : ℚ) < d := Nat.cast_pos.2 hd
  constructor
  · rw [sub_sub, zpow_sub₀ two_ne_zero]
    exact div_le_div₀ (Nat.cast_nonneg n) hn1 hd' hd2.le
  · rw [sub_add_eq_add_sub, zpow_sub₀ two_ne_zero]
    exact div_lt_div₀ hn2 hd1 (two_zpow_pos _).le (two_zpow_pos _)

/-- `floorLog2` is the exponent of R96. -/
theorem floorLog2_bounds {n d : Nat} (hn : 0 < n) (hd : 0 < d) :
    (2 : ℚ) ^ floorLog2 n d ≤ n / d ∧ (n : ℚ) / d < 2 ^ (floorLog2 n d + 1) := by
  obtain ⟨lower, upper⟩ := two_zpow_log2_bounds hn hd
  unfold floorLog2
  simp only [scaled_le_iff hd]
  split
  next h => exact ⟨h, upper⟩
  next h => exact ⟨lower, by simpa using h⟩

/-! ## The discarded part -/

theorem half_lt_div_iff {r d : Nat} (hd : 0 < d) : 1 / 2 < (r : ℚ) / d ↔ d < 2 * r := by
  rw [div_lt_div_iff₀ two_pos (Nat.cast_pos.2 hd), one_mul, mul_comm]
  exact_mod_cast Iff.rfl

theorem div_eq_half_iff {r d : Nat} (hd : 0 < d) : (r : ℚ) / d = 1 / 2 ↔ 2 * r = d := by
  rw [div_eq_div_iff (Nat.cast_ne_zero.2 hd.ne') two_ne_zero, one_mul, mul_comm]
  exact_mod_cast Iff.rfl

/-- G and R are the bits of `floor(4f)`, and S is below them. -/
theorem grsBits_eq (r d : Nat) : grsBits r d = 2 * (4 * r / d) + if 4 * r % d = 0 then 0 else 1 := by
  have hg : 2 * r / d = 4 * r / d / 2 := by
    rw [Nat.div_div_eq_div_mul, mul_comm d, ← Nat.mul_div_mul_left (2 * r) d two_pos]
    congr 1
    omega
  unfold grsBits
  simp only [hg]
  omega

/-- The two thresholds of R97: GRS against 0b100 compares f with 1/2. -/
theorem grsBits_thresholds {r d : Nat} (h : r < d) :
    (5 ≤ grsBits r d ↔ d < 2 * r) ∧ (grsBits r d = 4 ↔ 2 * r = d) := by
  have hq : 4 * r / d < 4 := Nat.div_lt_of_lt_mul (by omega)
  have hr : 4 * r % d < d := Nat.mod_lt _ (by omega)
  have split4 := Nat.div_add_mod (4 * r) d
  rw [grsBits_eq]
  generalize 4 * r / d = q at *
  generalize 4 * r % d = x at *
  interval_cases q <;> split <;> omega

/-- S is the OR of the bits of f below R: f has none exactly when 4f is an integer. -/
theorem four_mul_div_isInt_iff {r d : Nat} (hd : 0 < d) : (∃ z : ℤ, 4 * ((r : ℚ) / d) = z) ↔ 4 * r % d = 0 := by
  have hf : 4 * ((r : ℚ) / d) = ((4 * r : Nat) : ℚ) / d := by push_cast; ring
  rw [hf, ← Nat.dvd_iff_mod_eq_zero]
  constructor
  · rintro ⟨z, hz⟩
    rw [div_eq_iff (Nat.cast_ne_zero.2 hd.ne')] at hz
    exact Int.natCast_dvd_natCast.1 ⟨z, by rw [mul_comm (d : ℤ)]; exact_mod_cast hz⟩
  · rintro ⟨z, hz⟩
    exact ⟨z, by rw [hz, Nat.cast_mul, mul_div_cancel_left₀ _ (Nat.cast_ne_zero.2 hd.ne')]; rfl⟩

theorem floor_nat_mul_div (c r d : Nat) : ⌊(c : ℚ) * (r / d)⌋ = ((c * r / d : Nat) : ℤ) := by
  rw [← mul_div_assoc, ← Nat.cast_mul, Rat.floor_natCast_div_natCast, Int.natCast_div]

/-- Settles O35: GRS is twice `floor(4f)` plus S, which the cases of `floor(4f)` compare with 4 and 5. -/
theorem grsRuleIsRoundToNearestEven : Obligations.GrsRuleIsRoundToNearestEven := by
  intro m r d h
  have hd : 0 < d := by omega
  obtain ⟨above, tie⟩ := grsBits_thresholds h
  refine ⟨if 4 * r % d = 0 then 0 else 1, by split <;> simp, ?_, ?_, ?_, ?_, ?_⟩
  · rw [four_mul_div_isInt_iff hd]
    split <;> simp [*]
  · have floor2 : ⌊2 * ((r : ℚ) / d)⌋ = ((2 * r / d : Nat) : ℤ) := floor_nat_mul_div 2 r d
    have floor4 : ⌊4 * ((r : ℚ) / d)⌋ = ((4 * r / d : Nat) : ℤ) := floor_nat_mul_div 4 r d
    rw [floor2, floor4]
    simp only [grsBits]
    split <;> push_cast <;> rfl
  · rw [half_lt_div_iff hd, above]
  · rw [div_eq_half_iff hd, tie]
  · rw [half_lt_div_iff hd, div_eq_half_iff hd, roundUpGRS, decide_eq_true_iff, above, tie]

/-! ## Rounding to nearest even -/

/-- The rational t rounded to an integer as R96 does: m and f are its floor and fractional part. -/
def nearestEven (t : ℚ) : ℤ :=
  if 1 / 2 < Int.fract t ∨ (Int.fract t = 1 / 2 ∧ ⌊t⌋ % 2 = 1) then ⌊t⌋ + 1 else ⌊t⌋

theorem roundNearestEven_eq_nearestEven (n : Nat) {d : Nat} (hd : 0 < d) :
    (roundNearestEven n d : ℤ) = nearestEven (n / d) := by
  have hfloor : ⌊(n : ℚ) / d⌋ = ((n / d : Nat) : ℤ) := Rat.floor_natCast_div_natCast n d
  have hodd : ((n / d : Nat) : ℤ) % 2 = 1 ↔ n / d % 2 = 1 := by omega
  simp only [nearestEven, Int.fract_div_natCast_eq_div_natCast_mod, half_lt_div_iff hd, div_eq_half_iff hd, hfloor, hodd,
    roundNearestEven]
  split <;> push_cast <;> rfl

theorem nearestEven_le_of_lt {t : ℚ} {b : ℤ} (h : t < b) : nearestEven t ≤ b := by
  have := Int.floor_lt.2 h
  unfold nearestEven
  split <;> omega

/-! ## Packing -/

/-- The last lines of R96 for a significand rounded to m and the exponent e of the value: renormalise, then pack. -/
def packRounded (s : Nat) (m e : ℤ) : Quad :=
  let E : ℤ := (if m = 2 ^ 113 then e + 1 else e) + 16383
  if 0x7FFF ≤ E then quad s 0x7FFF 0
  else if E ≤ 0 then quad s 0 0
  else quad s E.toNat ((if m = 2 ^ 113 then 2 ^ 112 else m) - 2 ^ 112).toNat

/-- R96 is rounding t to nearest even, then packing. -/
theorem rounds_iff_packRounded (s : Nat) (v : ℚ) (r : Quad) : Rounds s v r ↔
    ∃ e : ℤ, (2 : ℚ) ^ e ≤ v ∧ v < (2 : ℚ) ^ (e + 1) ∧ r = packRounded s (nearestEven (v / 2 ^ (e - 112))) e := Iff.rfl

theorem toNat_ofInt_expo {E : ℤ} (pos : 0 < E) (lt : E < 0x7FFF) : (BitVec.ofInt 15 E).toNat = E.toNat := by
  rw [BitVec.toNat_ofInt]
  omega

/-- `roundpack` packs as R96 does the significand it rounds to. -/
theorem roundpack_eq_packRounded (s : Bool) (n d : Nat) (k : ℤ) {e : ℤ} {m : Nat} (he : floorLog2 n d = e)
    (hm : roundNearestEven (n * 2 ^ (112 - e).toNat) (d * 2 ^ (e - 112).toNat) = m) (bound : m ≤ 2 ^ 113) :
    roundpack s n d k = packRounded s.toNat m (e + k) := by
  have carry : (m : ℤ) = 2 ^ 113 ↔ m = 2 ^ 113 := by omega
  have hfrac : (BitVec.ofNat 112 ((if m = 2 ^ 113 then 2 ^ 112 else m) - 2 ^ 112)).toNat =
      ((if m = 2 ^ 113 then 2 ^ 112 else (m : ℤ)) - 2 ^ 112).toNat := by
    rw [BitVec.toNat_ofNat]
    split <;> omega
  simp only [roundpack, he, hm, packRounded, carry]
  generalize (if m = 2 ^ 113 then e + k + 1 else e + k) + 16383 = E
  split
  · exact pack_eq_quad s 0x7FFF 0
  · split
    · exact pack_eq_quad s 0 0
    · rw [pack_eq_quad, hfrac, toNat_ofInt_expo (by omega) (by omega)]

/-- The rational R96 rounds to a significand, `t = v / 2^(e - 112)`, as the quotient `roundpack` divides. -/
theorem scaled_div_eq {n d : Nat} (k e : ℤ) :
    (n : ℚ) / d * 2 ^ k / 2 ^ (e + k - 112) = (n * 2 ^ (112 - e).toNat : Nat) / (d * 2 ^ (e - 112).toNat : Nat) := by
  calc (n : ℚ) / d * 2 ^ k / 2 ^ (e + k - 112)
      = n / d / 2 ^ (e - 112) := by
        rw [add_sub_right_comm, zpow_add₀ two_ne_zero, mul_div_mul_right _ _ (two_zpow_pos k).ne']
    _ = n / d / ((2 ^ (e - 112).toNat : Nat) / (2 ^ (112 - e).toNat : Nat)) := by
        rw [two_zpow_eq_div (e - 112), neg_sub]
    _ = _ := by rw [div_div_div_eq, Nat.cast_mul, Nat.cast_mul]

/-- The significand of a value is below `2^113`. -/
theorem scaled_lt {v : ℚ} {e : ℤ} (h : v < 2 ^ (e + 1)) : v / 2 ^ (e - 112) < (2 ^ 113 : ℤ) := by
  rw [div_lt_iff₀ (two_zpow_pos _)]
  calc v < (2 : ℚ) ^ (e + 1) := h
    _ = 2 ^ (113 : ℤ) * 2 ^ (e - 112) := by rw [← zpow_add₀ two_ne_zero]; congr 1; ring
    _ = _ := by push_cast; rfl

/-- `roundpack` follows R96: its exponent is the one R96 asks for, and its significand is R96's. -/
theorem roundpack_rounds (s : Bool) {n d : Nat} (k : ℤ) (hn : 0 < n) (hd : 0 < d) :
    Rounds s.toNat ((n : ℚ) / d * 2 ^ k) (roundpack s n d k) := by
  obtain ⟨lower, upper⟩ := floorLog2_bounds hn hd
  have significand := roundNearestEven_eq_nearestEven (n * 2 ^ (112 - floorLog2 n d).toNat)
    (d := d * 2 ^ (floorLog2 n d - 112).toNat) (by positivity)
  have upper' : (n : ℚ) / d * 2 ^ k < 2 ^ (floorLog2 n d + k + 1) := by
    rw [add_right_comm, zpow_add₀ two_ne_zero]
    exact mul_lt_mul_of_pos_right upper (two_zpow_pos k)
  rw [← scaled_div_eq k] at significand
  refine (rounds_iff_packRounded _ _ _).2 ⟨floorLog2 n d + k, ?_, upper', ?_⟩
  · rw [zpow_add₀ two_ne_zero]
    exact mul_le_mul_of_nonneg_right lower (two_zpow_pos k).le
  · rw [← significand]
    refine roundpack_eq_packRounded s n d k rfl rfl ?_
    exact_mod_cast significand.trans_le (nearestEven_le_of_lt (scaled_lt upper'))

/-- Settles O34: `roundpack_rounds` is the statement. -/
theorem roundpackFollowsItsRule : Obligations.RoundpackFollowsItsRule :=
  fun s _ _ k hn hd => roundpack_rounds s k hn hd

end Sys2Proof.Machine
end

section
/-! The binary128 format as the statements' numbers: classes, signs and values of a pattern (40_fp_arith.md R91 to R94), and
the NaN results (R99). -/

namespace Sys2Proof.Machine

open Sys2Proof.Claims

/-! ## Classes -/

theorem expoOf_eq_iff (q : Quad) (e : BitVec 15) : expoOf q = e.toNat ↔ expo q = e := by
  rw [expoOf_eq, BitVec.toNat_inj]

theorem fracOf_eq_zero_iff (q : Quad) : fracOf q = 0 ↔ frac q = 0 := by
  rw [fracOf_eq, ← BitVec.toNat_inj]
  rfl

theorem expoOf_eq_zero_iff (q : Quad) : expoOf q = 0 ↔ expo q = 0 := expoOf_eq_iff q 0

theorem expoOf_eq_max_iff (q : Quad) : expoOf q = 0x7FFF ↔ expo q = 0x7FFF#15 := expoOf_eq_iff q 0x7FFF#15

theorem isNaN_iff (q : Quad) : isNaN q = true ↔ ClassNaN q := by
  simp [isNaN, ClassNaN, expoOf_eq_max_iff, fracOf_eq_zero_iff]

theorem isInf_iff (q : Quad) : isInf q = true ↔ ClassInf q := by
  simp [isInf, ClassInf, expoOf_eq_max_iff, fracOf_eq_zero_iff]

theorem isZero_iff (q : Quad) : isZero q = true ↔ ClassZero q := by
  simp [isZero, ClassZero, expoOf_eq_zero_iff, fracOf_eq_zero_iff]

theorem isSubnormal_iff (q : Quad) : isSubnormal q = true ↔ ClassSubnormal q := by
  simp [isSubnormal, ClassSubnormal, expoOf_eq_zero_iff, fracOf_eq_zero_iff]

theorem isz_iff (q : Quad) : isz q = true ↔ ReadsAsZero q := by
  rw [isz, Bool.or_eq_true, isZero_iff, isSubnormal_iff, ← and_or_left, and_iff_left (em _)]

theorem isNormal_iff (q : Quad) : isNormal q = true ↔ ClassNormal q := by
  have lt : expoOf q < 2 ^ 15 := Nat.mod_lt _ (by decide)
  simp only [isNormal, Bool.and_eq_true, bne_iff_ne, ne_eq, ← expoOf_eq_max_iff]
  rw [← expoOf_eq_zero_iff]
  omega

/-- "Exactly one class holds for every q" (R91). -/
theorem classNormal_of_not {q : Quad} (notNaN : ¬ClassNaN q) (notInf : ¬ClassInf q) (notZero : ¬ReadsAsZero q) :
    ClassNormal q := by
  have lt : expoOf q < 2 ^ 15 := Nat.mod_lt _ (by decide)
  omega

/-! ## Signs and values -/

theorem signOf_eq_signOf_iff (a b : Quad) : signOf a = signOf b ↔ sign a = sign b := by
  rw [signOf_eq, signOf_eq]
  cases sign a <;> cases sign b <;> simp

theorem signOf_eq_one_iff (q : Quad) : signOf q = 1 ↔ sign q = true := by
  rw [signOf_eq, Bool.toNat_eq_one]

theorem toNat_sign_xor (a b : Quad) : (sign a ^^ sign b).toNat = signXor a b := by
  rw [signXor, signOf_eq, signOf_eq]
  cases sign a <;> cases sign b <;> rfl

theorem pack_inf (s : Bool) : pack s 0x7FFF 0 = quad s.toNat 0x7FFF 0 := pack_eq_quad s 0x7FFF 0

theorem pack_zero (s : Bool) : pack s 0 0 = quad s.toNat 0 0 := pack_eq_quad s 0 0

/-- R94: the value is the significand at the pattern's scale. -/
theorem val_eq (q : Quad) : val q = sig q * 2 ^ scale q := by
  simp only [val, sig, isNormal_iff, scale, expoOf_eq, fracOf_eq]
  split
  · rfl
  · rw [Nat.cast_zero, zero_mul]

theorem sig_pos {q : Quad} (h : ClassNormal q) : 0 < sig q := by
  rw [sig, if_pos ((isNormal_iff q).2 h)]
  omega

/-- The signed value in units of a place at or below the pattern's last one. -/
theorem svalUnits_mul {q : Quad} {e : Nat} (h : e ≤ (expo q).toNat) :
    (svalUnits q e : ℚ) * 2 ^ ((e : ℤ) - 16383 - 112) = sval q := by
  have magnitude : ((sig q * 2 ^ ((expo q).toNat - e) : Nat) : ℚ) * 2 ^ ((e : ℤ) - 16383 - 112) = val q := by
    rw [val_eq, scale, Nat.cast_mul, Nat.cast_pow, Nat.cast_two, mul_assoc, ← zpow_natCast, ← zpow_add₀ two_ne_zero,
      Nat.cast_sub h]
    congr 2
    ring
  rw [sval, ← magnitude, signOf_eq]
  unfold svalUnits
  cases sign q <;> simp

/-! ## Results -/

theorem expo_pack (s : Bool) (e : BitVec 15) (f : BitVec 112) : expo (pack s e f) = e := by
  apply BitVec.eq_of_toNat_eq
  simp only [expo, pack, BitVec.extractLsb'_toNat, toNat_append_eq_add, Nat.shiftRight_eq_div_pow]
  omega

theorem frac_pack (s : Bool) (e : BitVec 15) (f : BitVec 112) : frac (pack s e f) = f := by
  apply BitVec.eq_of_toNat_eq
  simp only [frac, pack, BitVec.extractLsb'_toNat, toNat_append_eq_add, Nat.shiftRight_zero]
  omega

theorem drawNaN_isNaN (x : Quad) : ClassNaN (drawNaN x) := by
  rw [← isNaN_iff, isNaN, drawNaN, expo_pack, frac_pack]
  split
  next => rfl
  next h => simpa using h

/-- R99. -/
theorem producesNaN_nanResult (p : Params) (draw : Wide) : ProducesNaN p (nanResult p draw) := by
  unfold ProducesNaN nanResult
  cases p.nanOut
  · rfl
  · exact drawNaN_isNaN _

end Sys2Proof.Machine
end

section
/-! The binary128 commands of 40_fp_arith.md against their rules (R104 to R112), and that no arithmetic result is subnormal
(R101). -/

namespace Sys2Proof.Machine

open Sys2Proof.Claims

/-! ## The arithmetic against its rules -/

theorem zerosum_plus {p : Params} (h : p.zeroSumSign = .plus) (a b : Quad) : zerosum p a b = quad 0 0 0 := by
  rw [zerosum, h]
  exact pack_zero false

theorem zerosum_ieee {p : Params} (h : p.zeroSumSign = .ieee) (a b : Quad) :
    zerosum p a b = if signOf a = 1 ∧ signOf b = 1 then quad 1 0 0 else quad 0 0 0 := by
  rw [zerosum, h]
  simp only [signOf_eq_one_iff, pack_zero]
  cases sign a <;> cases sign b <;> rfl

/-- A nonzero integer in units of `2^k`, packed with its own sign, is rounded as R96 says. -/
theorem roundpack_int_rounds {S : ℤ} {k : ℤ} {v : ℚ} (hv : (S : ℚ) * 2 ^ k = v) (nonzero : S ≠ 0) :
    Rounds (if v < 0 then 1 else 0) |v| (roundpack (decide (S < 0)) S.natAbs 1 k) := by
  have habs : ((S.natAbs : ℚ) / (1 : Nat)) * 2 ^ k = |v| := by
    rw [← hv, abs_mul, abs_of_pos (two_zpow_pos k), Nat.cast_one, div_one, Nat.cast_natAbs, Int.cast_abs]
  have hsign : (decide (S < 0)).toNat = if v < 0 then 1 else 0 := by
    rw [← hv]
    simp only [← not_le, mul_nonneg_iff_of_pos_right (two_zpow_pos k), Int.cast_nonneg_iff]
    split <;> simp_all
  rw [← habs, ← hsign]
  exact roundpack_rounds _ k (Int.natAbs_pos.2 nonzero) one_pos

/-- The exact sum in units of the smaller operand's last place. -/
theorem svalUnits_add_mul (a b : Quad) {e : Nat} (he : e = min (expo a).toNat (expo b).toNat) :
    ((svalUnits a e + svalUnits b e : ℤ) : ℚ) * 2 ^ ((e : ℤ) - 16383 - 112) = sval a + sval b := by
  rw [Int.cast_add, add_mul, svalUnits_mul (by omega), svalUnits_mul (by omega)]

theorem svalUnits_add_eq_zero_iff (a b : Quad) {e : Nat} (he : e = min (expo a).toNat (expo b).toNat) :
    svalUnits a e + svalUnits b e = 0 ↔ sval a + sval b = 0 := by
  rw [← svalUnits_add_mul a b he, mul_eq_zero_iff_right (two_zpow_pos _).ne', Int.cast_eq_zero]

/-- R104 to R106. -/
theorem fadd_isSum {p : Params} {nan : Quad} (a b : Quad) (hnan : ProducesNaN p nan) :
    IsSum p a b (fadd p nan a b) := by
  generalize hr : fadd p nan a b = r
  have hzero := svalUnits_add_eq_zero_iff a b rfl
  simp only [fadd, Bool.or_eq_true, Bool.and_eq_true, isNaN_iff, isInf_iff, ← signOf_eq_signOf_iff, hzero, pack_inf,
    ← signOf_eq] at hr
  unfold IsSum
  by_cases hNaN : ClassNaN a ∨ ClassNaN b
  · rw [if_pos hNaN] at hr ⊢
    exact hr ▸ hnan
  rw [if_neg hNaN] at hr ⊢
  by_cases bothInf : ClassInf a ∧ ClassInf b
  · rw [if_pos bothInf] at hr ⊢
    split_ifs at hr ⊢
    · exact hr.symm
    · exact hr ▸ hnan
  rw [if_neg bothInf] at hr ⊢
  by_cases aInf : ClassInf a
  · rw [if_pos aInf] at hr ⊢
    exact hr.symm
  rw [if_neg aInf] at hr ⊢
  by_cases bInf : ClassInf b
  · rw [if_pos bInf] at hr ⊢
    exact hr.symm
  rw [if_neg bInf] at hr ⊢
  by_cases exactZero : sval a + sval b = 0
  · rw [if_pos exactZero] at hr ⊢
    split
    · exact hr ▸ zerosum_plus ‹_› a b
    · exact hr ▸ zerosum_ieee ‹_› a b
  · rw [if_neg exactZero] at hr ⊢
    exact hr ▸ roundpack_int_rounds (svalUnits_add_mul a b rfl) (exactZero ∘ hzero.1)

/-- R108, R109. -/
theorem fmul_isProduct {p : Params} {nan : Quad} (a b : Quad) (hnan : ProducesNaN p nan) :
    IsProduct p a b (fmul nan a b) := by
  generalize hr : fmul nan a b = r
  simp only [fmul, Bool.or_eq_true, Bool.and_eq_true, isNaN_iff, isInf_iff, isz_iff, pack_inf, pack_zero,
    toNat_sign_xor] at hr
  unfold IsProduct
  split_ifs at hr ⊢ with hNaN hInvalid hInf hZero
  · exact hr ▸ hnan
  · exact hr ▸ hnan
  · exact hr.symm
  · exact hr.symm
  · rw [not_or] at hNaN hInf hZero
    have ha := sig_pos (classNormal_of_not hNaN.1 hInf.1 hZero.1)
    have hb := sig_pos (classNormal_of_not hNaN.2 hInf.2 hZero.2)
    have value : ((sig a * sig b : Nat) : ℚ) / (1 : Nat) * 2 ^ (scale a + scale b) = val a * val b := by
      rw [val_eq, val_eq, zpow_add₀ two_ne_zero]
      push_cast
      ring
    rw [← hr, ← value, ← toNat_sign_xor]
    exact roundpack_rounds _ _ (Nat.mul_pos ha hb) one_pos

/-- R110, R111. -/
theorem fdiv_isQuotient {p : Params} {nan : Quad} (a b : Quad) (hnan : ProducesNaN p nan) :
    IsQuotient p a b (fdiv nan a b) := by
  generalize hr : fdiv nan a b = r
  simp only [fdiv, Bool.or_eq_true, Bool.and_eq_true, isNaN_iff, isInf_iff, isz_iff, pack_inf, pack_zero,
    toNat_sign_xor] at hr
  unfold IsQuotient
  split_ifs at hr ⊢ with hNaN bothInf bothZero aInf bInf bZero aZero
  · exact hr ▸ hnan
  · exact hr ▸ hnan
  · exact hr ▸ hnan
  · exact hr.symm
  · exact hr.symm
  · exact hr.symm
  · exact hr.symm
  · rw [not_or] at hNaN
    have ha := sig_pos (classNormal_of_not hNaN.1 aInf aZero)
    have hb := sig_pos (classNormal_of_not hNaN.2 bInf bZero)
    have value : (sig a : ℚ) / sig b * 2 ^ (scale a - scale b) = val a / val b := by
      rw [val_eq, val_eq, zpow_sub₀ two_ne_zero, mul_div_mul_comm]
    rw [← hr, ← value, ← toNat_sign_xor]
    exact roundpack_rounds _ _ ha hb

/-- The mask as a number, each class bit at its place. -/
theorem fclass_toNat (a : Quad) : (fclass a).toNat =
    (if ClassNaN a then 1 else 0) + (if ClassInf a then 2 else 0) + (if ClassZero a then 4 else 0) +
      (if ClassSubnormal a then 8 else 0) + 16 * signOf a := by
  simp only [fclass, toNat_append_eq_add, BitVec.toNat_ofBool, signOf_eq, ← isNaN_iff, ← isInf_iff, ← isZero_iff,
    ← isSubnormal_iff, Bool.toNat, Bool.cond_eq_ite]
  split_ifs <;> omega

/-! ## The commands -/

theorem quadIn_eq (v : Wide) : quadIn v = v.setWidth 128 := BitVec.ofNat_toNat 128 v

theorem quadIn_place (r : Quad) : quadIn (place r) = r := by
  rw [quadIn_eq, place, BitVec.setWidth_setWidth_of_le r (by decide), BitVec.setWidth_eq]

theorem gives_completeWith {n : Nat} (hn : n ≤ 256) (r : BitVec n) (s : State) :
    Gives (.next (completeWith r s)) (completed s r.toNat 0 .none) := by
  have h := gives_complete (place r) 0 .none s
  rwa [place, BitVec.toNat_setWidth_of_le hn] at h

/-- Settles O37: the operands are those of `fadd_isSum`, and the NaN it produces is the command's. -/
theorem faddGivesTheRoundedSum : Obligations.FaddGivesTheRoundedSum := by
  refine ⟨decode_encode .faddQ, fun s => ⟨_, gives_completeWith (by decide) _ s, ?_⟩⟩
  rw [quadIn_eq, quadIn_eq]
  exact fadd_isSum s.a128 s.b128 (producesNaN_nanResult s.params s.draw)

/-- Settles O38: subtraction runs the addition on the negated b, so R104 to R106 hold of it as they stand (R107). -/
theorem fsubGivesTheRoundedDifference : Obligations.FsubGivesTheRoundedDifference := by
  refine ⟨decode_encode .fsubQ, fun s => ⟨_, gives_completeWith (by decide) _ s, ?_⟩⟩
  rw [quadIn_eq, quadIn_eq]
  exact fadd_isSum s.a128 (negate s.b128) (producesNaN_nanResult s.params s.draw)

/-- Settles O39: the operands are those of `fmul_isProduct`, and the NaN it produces is the command's. -/
theorem fmulGivesTheRoundedProduct : Obligations.FmulGivesTheRoundedProduct := by
  refine ⟨decode_encode .fmulQ, fun s => ⟨_, gives_completeWith (by decide) _ s, ?_⟩⟩
  rw [quadIn_eq, quadIn_eq]
  exact fmul_isProduct s.a128 s.b128 (producesNaN_nanResult s.params s.draw)

/-- Settles O40: the operands are those of `fdiv_isQuotient`, and the NaN it produces is the command's. -/
theorem fdivGivesTheRoundedQuotient : Obligations.FdivGivesTheRoundedQuotient := by
  refine ⟨decode_encode .fdivQ, fun s => ⟨_, gives_completeWith (by decide) _ s, ?_⟩⟩
  rw [quadIn_eq, quadIn_eq]
  exact fdiv_isQuotient s.a128 s.b128 (producesNaN_nanResult s.params s.draw)

/-- Settles O41: the mask is a concatenation of its class bits, so its number is their sum. -/
theorem fclassGivesTheClassMask : Obligations.FclassGivesTheClassMask := by
  refine ⟨decode_encode .fclassQ, fun s => ?_⟩
  simp only [quadIn_eq, ← fclass_toNat]
  exact gives_completeWith (by decide) (fclass s.a128) s

/-! ## No subnormal results -/

/-- A packed pattern is subnormal only with exponent 0 and a nonzero fraction. -/
theorem classSubnormal_pack_iff (s : Bool) (e : BitVec 15) (f : BitVec 112) :
    ClassSubnormal (pack s e f) ↔ e = 0 ∧ f ≠ 0 := by
  rw [ClassSubnormal, expoOf_eq_zero_iff, Ne, fracOf_eq_zero_iff, expo_pack, frac_pack]

theorem pack_zero_not_subnormal (s : Bool) (e : BitVec 15) : ¬ClassSubnormal (pack s e 0) :=
  fun h => ((classSubnormal_pack_iff s e 0).1 h).2 rfl

/-- The three ways `roundpack` packs a biased exponent: an infinity, a zero (R100), and an exponent above 0. -/
theorem packed_not_subnormal (s : Bool) (E : ℤ) (f : BitVec 112) :
    ¬ClassSubnormal (if 0x7FFF ≤ E then pack s 0x7FFF 0 else if E ≤ 0 then pack s 0 0 else pack s (BitVec.ofInt 15 E) f) := by
  split
  · exact pack_zero_not_subnormal s 0x7FFF
  split
  · exact pack_zero_not_subnormal s 0
  · have hE := toNat_ofInt_expo (E := E) (by omega) (by omega)
    rw [classSubnormal_pack_iff]
    rintro ⟨zeroExponent, -⟩
    rw [zeroExponent] at hE
    change 0 = E.toNat at hE
    omega

theorem roundpack_not_subnormal (s : Bool) (n d : Nat) (k : ℤ) : ¬ClassSubnormal (roundpack s n d k) :=
  packed_not_subnormal s _ _

theorem nanResult_not_subnormal (p : Params) (draw : Wide) : ¬ClassSubnormal (nanResult p draw) := by
  unfold nanResult
  split
  · decide
  · have := drawNaN_isNaN (draw.setWidth 128)
    omega

theorem zerosum_not_subnormal (p : Params) (a b : Quad) : ¬ClassSubnormal (zerosum p a b) := by
  unfold zerosum
  split
  · exact pack_zero_not_subnormal _ 0
  · exact pack_zero_not_subnormal _ 0

section
variable {nan : Quad} (hnan : ¬ClassSubnormal nan)
include hnan

theorem fadd_not_subnormal (p : Params) (a b : Quad) : ¬ClassSubnormal (fadd p nan a b) := by
  unfold fadd
  split
  · exact hnan
  split
  · split
    · rename_i hInf _
      rw [Bool.and_eq_true, isInf_iff, isInf_iff] at hInf
      omega
    · exact hnan
  split
  · exact pack_zero_not_subnormal _ _
  split
  · exact pack_zero_not_subnormal _ _
  dsimp only
  split
  · exact zerosum_not_subnormal p a b
  · exact roundpack_not_subnormal _ _ _ _

theorem fmul_not_subnormal (a b : Quad) : ¬ClassSubnormal (fmul nan a b) := by
  simp only [fmul]
  split_ifs
  · exact hnan
  · exact hnan
  · exact pack_zero_not_subnormal _ _
  · exact pack_zero_not_subnormal _ _
  · exact roundpack_not_subnormal _ _ _ _

theorem fdiv_not_subnormal (a b : Quad) : ¬ClassSubnormal (fdiv nan a b) := by
  simp only [fdiv]
  split_ifs
  · exact hnan
  · exact hnan
  · exact hnan
  · exact pack_zero_not_subnormal _ _
  · exact pack_zero_not_subnormal _ _
  · exact pack_zero_not_subnormal _ _
  · exact pack_zero_not_subnormal _ _
  · exact roundpack_not_subnormal _ _ _ _

end

theorem completeWith_not_subnormal {r : Quad} (h : ¬ClassSubnormal r) (s : State) :
    ¬ClassSubnormal (quadIn (completeWith r s).res) := by
  rwa [completeWith_eq, complete_res, quadIn_place]

/-- Settles O42: each result is the command's NaN, an infinite operand, or packed with a zero fraction or a nonzero
exponent. -/
theorem arithmeticNeverGivesASubnormal : Obligations.ArithmeticNeverGivesASubnormal := by
  intro i s hi
  have hnan := nanResult_not_subnormal s.params s.draw
  rcases hi with rfl | rfl | rfl | rfl
  · exact ⟨_, rfl, completeWith_not_subnormal (fadd_not_subnormal hnan s.params s.a128 s.b128) s⟩
  · exact ⟨_, rfl, completeWith_not_subnormal (fadd_not_subnormal hnan s.params s.a128 (negate s.b128)) s⟩
  · exact ⟨_, rfl, completeWith_not_subnormal (fmul_not_subnormal hnan s.a128 s.b128) s⟩
  · exact ⟨_, rfl, completeWith_not_subnormal (fdiv_not_subnormal hnan s.a128 s.b128) s⟩

end Sys2Proof.Machine
end

section
/-! Integers to binary128 (41_fp_conversion.md R131 to R137): the fields and the value of a pattern packed from numbers, and the
significand of an integer. -/

namespace Sys2Proof.Machine

open Sys2Proof.Claims

/-! ## A pattern packed from numbers -/

theorem signOf_quad {s e f : Nat} (hs : s < 2) (he : e < 2 ^ 15) (hf : f < 2 ^ 112) : signOf (quad s e f) = s := by
  rw [signOf, quad, BitVec.toNat_ofNat]
  omega

theorem expoOf_quad (s : Nat) {e f : Nat} (he : e < 2 ^ 15) (hf : f < 2 ^ 112) : expoOf (quad s e f) = e := by
  rw [expoOf, quad, BitVec.toNat_ofNat]
  omega

theorem fracOf_quad (s e : Nat) {f : Nat} (hf : f < 2 ^ 112) : fracOf (quad s e f) = f := by
  rw [fracOf, quad, BitVec.toNat_ofNat]
  omega

theorem pack_ofNat_eq_quad (s : Bool) {e f : Nat} (he : e < 2 ^ 15) (hf : f < 2 ^ 112) :
    pack s (BitVec.ofNat 15 e) (BitVec.ofNat 112 f) = quad s.toNat e f := by
  rw [pack_eq_quad, BitVec.toNat_ofNat, BitVec.toNat_ofNat, Nat.mod_eq_of_lt he, Nat.mod_eq_of_lt hf]

/-- `roundpack` of the value `m * 2^k`, m a nonzero integer, as R96 rounds it. -/
theorem roundpack_nat_rounds (s : Bool) {m : Nat} (k : ℤ) (hm : 0 < m) :
    Rounds s.toNat (m * 2 ^ k) (roundpack s m 1 k) := by
  simpa using roundpack_rounds s k hm one_pos

/-! ## Integers to binary128 -/

/-- The leading bit of an integer of at most 113 bits, shifted up to place 112. -/
theorem significand_shifted_up {m e : Nat} (lower : 2 ^ e ≤ m) (upper : m < 2 ^ (e + 1)) (he : e ≤ 112) :
    2 ^ 112 ≤ m * 2 ^ (112 - e) ∧ m * 2 ^ (112 - e) < 2 ^ 113 := by
  have split112 : 2 ^ e * 2 ^ (112 - e) = 2 ^ 112 := pow_mul_pow_sub 2 he
  have split113 : 2 ^ (e + 1) * 2 ^ (112 - e) = 2 ^ 113 := by rw [← pow_add]; congr 1; omega
  exact ⟨split112 ▸ Nat.mul_le_mul_right _ lower, split113 ▸ Nat.mul_lt_mul_of_pos_right upper (by positivity)⟩

/-- The leading bit of a longer integer, shifted down to place 112. -/
theorem significand_shifted_down {m e : Nat} (lower : 2 ^ e ≤ m) (upper : m < 2 ^ (e + 1)) (he : 112 ≤ e) :
    2 ^ 112 ≤ m / 2 ^ (e - 112) ∧ m / 2 ^ (e - 112) < 2 ^ 113 := by
  have split112 : 2 ^ 112 * 2 ^ (e - 112) = 2 ^ e := pow_mul_pow_sub 2 he
  have split113 : 2 ^ (e - 112) * 2 ^ 113 = 2 ^ (e + 1) := by rw [← pow_add]; congr 1; omega
  exact ⟨(Nat.le_div_iff_mul_le (by positivity)).2 (split112 ▸ lower), Nat.div_lt_of_lt_mul (split113 ▸ upper)⟩

/-- R131, for the magnitudes the commands have: `bitlen` is one more than the exponent the rule asks for. -/
theorem intpack_isIntpack (p : Params) (s : Bool) {m : Nat} (hm : m < 2 ^ 256) :
    IsIntpack p s.toNat m (intpack p s m) := by
  rw [IsIntpack, intpack]
  by_cases zero : m = 0
  · rw [if_pos zero, if_pos zero]
    exact pack_zero false
  rw [if_neg zero, if_neg zero]
  have lower := Nat.log2_self_le zero
  have upper : m < 2 ^ (m.log2 + 1) := Nat.lt_log2_self
  have exponent : m.log2 < 256 := (Nat.log2_lt zero).2 hm
  refine ⟨m.log2, lower, upper, ?_⟩
  dsimp only [bitlen]
  rw [Nat.add_sub_cancel]
  by_cases fits : m.log2 ≤ 112
  · have significand := significand_shifted_up lower upper fits
    rw [if_pos fits, if_pos (by omega), show 113 - (m.log2 + 1) = 112 - m.log2 by omega]
    exact pack_ofNat_eq_quad s (by omega) (by omega)
  · have significand := significand_shifted_down lower upper (by omega)
    rw [if_neg fits, if_neg (by omega)]
    cases p.intToQRound with
    | trunc =>
      rw [show m.log2 + 1 - 113 = m.log2 - 112 by omega]
      exact pack_ofNat_eq_quad s (by omega) (by omega)
    | rne => simpa using roundpack_nat_rounds s 0 (Nat.pos_of_ne_zero zero)

theorem classNormal_quad (s : Nat) {e f : Nat} (pos : 0 < e) (lt : e < 0x7FFF) (hf : f < 2 ^ 112) :
    ClassNormal (quad s e f) := by
  rw [ClassNormal, expoOf_quad s (by omega) hf]
  exact ⟨pos, lt⟩

/-- The value of a packed normal pattern (R92, R94). -/
theorem sval_quad {s e f : Nat} (hs : s < 2) (pos : 0 < e) (lt : e < 0x7FFF) (hf : f < 2 ^ 112) :
    sval (quad s e f) = (-1) ^ s * ((2 ^ 112 + f : Nat) * 2 ^ ((e : ℤ) - 16383 - 112)) := by
  rw [sval, val, if_pos (classNormal_quad s pos lt hf), signOf_quad hs (by omega) hf, expoOf_quad s (by omega) hf,
    fracOf_quad s e hf]

/-- Settles O45: R131's exponent is at most 112 for such a magnitude, so the exact branch packs it. -/
theorem integersBelow113BitsConvertExactly : Obligations.IntegersBelow113BitsConvertExactly := by
  intro p s m pos small
  have packed := intpack_isIntpack p s (small.trans (by decide))
  rw [IsIntpack, if_neg pos.ne'] at packed
  obtain ⟨e, lower, upper, hr⟩ := packed
  have he : e < 113 := (Nat.pow_lt_pow_iff_right (by decide)).1 (lower.trans_lt small)
  rw [if_pos (by omega)] at hr
  obtain ⟨ge, lt⟩ := significand_shifted_up lower upper (by omega)
  have scale : (2 : ℚ) ^ (((e + 16383 : Nat) : ℤ) - 16383 - 112) = ((2 ^ (112 - e) : Nat) : ℚ)⁻¹ := by
    rw [show ((e + 16383 : Nat) : ℤ) - 16383 - 112 = -((112 - e : Nat) : ℤ) by omega, zpow_neg, zpow_natCast,
      Nat.cast_pow, Nat.cast_two]
  rw [hr]
  refine ⟨classNormal_quad _ (by omega) (by omega) (by omega), ?_⟩
  rw [sval_quad s.toNat_lt (by omega) (by omega) (by omega), Nat.add_sub_cancel' ge, scale, Nat.cast_mul,
    mul_inv_cancel_right₀ (by positivity)]

theorem toNat_setWidth_eq_low (n : Nat) (v : Wide) : (v.setWidth n).toNat = low n v := BitVec.toNat_setWidth ..

/-- R132, R134: the sign and the magnitude of a two's complement integer. -/
theorem intpackSigned_isIntpack (p : Params) {n : Nat} (x : BitVec n) (pos : 0 < n) (hn : n ≤ 256) :
    if x.toNat < 2 ^ (n - 1) then IsIntpack p 0 x.toNat (intpackSigned p x.toInt)
      else IsIntpack p 1 (2 ^ n - x.toNat) (intpackSigned p x.toInt) := by
  have hx := x.isLt
  have range : 2 ^ n ≤ 2 ^ 256 := Nat.pow_le_pow_right two_pos hn
  have half : 2 ^ n = 2 * 2 ^ (n - 1) := (mul_pow_sub_one pos.ne' 2).symm
  rw [intpackSigned, BitVec.toInt_eq_toNat_cond]
  split
  next nonneg =>
    rw [if_pos (by omega)]
    exact intpack_isIntpack p false (by omega)
  next neg =>
    rw [if_neg (by omega), show (x.toNat - (2 ^ n : Nat) : ℤ).natAbs = 2 ^ n - x.toNat by omega,
      decide_eq_true (by omega)]
    exact intpack_isIntpack p true (by omega)

/-- Settles O44: each command packs the integer its operand bits hold, with its sign and magnitude for W and L. -/
theorem integersConvertByIntpack : Obligations.IntegersConvertByIntpack := by
  refine ⟨decode_encode .fcvtQW, decode_encode .fcvtQWU, decode_encode .fcvtQL, decode_encode .fcvtQLU,
    decode_encode .fcvtQU128, decode_encode .fcvtQU256, fun s => ?_⟩
  have signed {n : Nat} (x : BitVec n) := intpackSigned_isIntpack s.params x
  have unsigned {n : Nat} (x : BitVec n) (hn : n ≤ 256) :
      IsIntpack s.params 0 x.toNat (intpack s.params false x.toNat) :=
    intpack_isIntpack s.params false (x.isLt.trans_le (Nat.pow_le_pow_right two_pos hn))
  simp only [← toNat_setWidth_eq_low]
  exact ⟨⟨_, gives_completeWith (by decide) _ s, signed s.a32 (by decide) (by decide)⟩,
    ⟨_, gives_completeWith (by decide) _ s, unsigned s.a32 (by decide)⟩,
    ⟨_, gives_completeWith (by decide) _ s, signed s.a64 (by decide) (by decide)⟩,
    ⟨_, gives_completeWith (by decide) _ s, unsigned s.a64 (by decide)⟩,
    ⟨_, gives_completeWith (by decide) _ s, unsigned s.a128 (by decide)⟩,
    ⟨_, gives_completeWith (by decide) _ s, unsigned s.a256 (by decide)⟩⟩

end Sys2Proof.Machine
end

section
/-! Narrow floats to binary128 and back (41_fp_conversion.md R138 to R140, R148 to R151), for every format whose fields fit the
wide ones. -/

namespace Sys2Proof.Machine

open Sys2Proof.Claims

/-! ## The narrow format -/

/-- The sign field of a narrow float's number. -/
theorem narrowSign_lt {k f x : Nat} (hx : x < 2 ^ (1 + k + f)) : x / 2 ^ (k + f) < 2 := by
  refine Nat.div_lt_of_lt_mul ?_
  rwa [← Nat.pow_succ, Nat.succ_eq_one_add, ← Nat.add_assoc]

/-- A number as its sign, exponent and fraction fields, each at its place. -/
theorem narrow_eq_fields (k f x : Nat) :
    x / 2 ^ (k + f) * 2 ^ (k + f) + x / 2 ^ f % 2 ^ k * 2 ^ f + x % 2 ^ f = x := by
  calc x / 2 ^ (k + f) * 2 ^ (k + f) + x / 2 ^ f % 2 ^ k * 2 ^ f + x % 2 ^ f
      = (x / 2 ^ f / 2 ^ k * 2 ^ k + x / 2 ^ f % 2 ^ k) * 2 ^ f + x % 2 ^ f := by
        rw [Nat.div_div_eq_div_mul, ← pow_add, Nat.add_comm f k, Nat.add_mul, Nat.mul_assoc _ (2 ^ k), ← pow_add]
    _ = x := by rw [Nat.div_add_mod', Nat.div_add_mod']

/-- The fields of binary128 are wide enough for a narrow format: its fraction fits, and every exponent of a normal narrow
float re-biases to one of a Normal. -/
structure FitsQuad (k f B : Nat) : Prop where
  fracPos : 0 < f := by decide
  fracLe : f ≤ 112 := by decide
  biasLe : B ≤ 16383 := by decide
  expoLe : 2 ^ k + 16383 ≤ 0x7FFF + B := by decide

theorem float32_fitsQuad : FitsQuad 8 23 127 := {}

theorem float64_fitsQuad : FitsQuad 11 52 1023 := {}

theorem packNarrow_toNat {k f : Nat} (s : Bool) (e : BitVec k) (fr : BitVec f) :
    (packNarrow s e fr).toNat = s.toNat * 2 ^ (k + f) + e.toNat * 2 ^ f + fr.toNat := by
  rw [packNarrow, toNat_append_eq_add, toNat_append_eq_add, BitVec.toNat_ofBool, Nat.add_mul, pow_add, Nat.mul_assoc]

theorem toNarrow_inf {s : Nat} (hs : s < 2) (k f B : Nat) :
    toNarrow k f B (quad s 0x7FFF 0) = s * 2 ^ (k + f) + (2 ^ k - 1) * 2 ^ f := by
  have inf : ClassInf (quad s 0x7FFF 0) := ⟨expoOf_quad s (by decide) (by decide), fracOf_quad s _ (by decide)⟩
  rw [toNarrow, if_neg (fun nan => nan.2 inf.2), if_pos inf, signOf_quad hs (by decide) (by decide)]

theorem toNarrow_zero {s : Nat} (hs : s < 2) (k f B : Nat) : toNarrow k f B (quad s 0 0) = s * 2 ^ (k + f) := by
  have zero : ReadsAsZero (quad s 0 0) := expoOf_quad s (by decide) (by decide)
  rw [toNarrow, if_neg (by omega), if_neg (by omega), if_pos zero, signOf_quad hs (by decide) (by decide)]

/-! ## The conversions against their rules -/

section
variable {k f B : Nat} (fits : FitsQuad k f B)
include fits

/-- A narrow fraction, shifted left into the wide field. -/
theorem FitsQuad.wideFrac_lt {F : Nat} (hF : F < 2 ^ f) : F * 2 ^ (112 - f) < 2 ^ 112 :=
  pow_mul_pow_sub 2 fits.fracLe ▸ Nat.mul_lt_mul_of_pos_right hF (by positivity)

/-- R140: the cases are an exponent of all ones, one of zero, where the policy decides on a subnormal, and a normal one. -/
theorem fromnarrow_isFromNarrow (p : Params) (x : BitVec (1 + k + f)) :
    IsFromNarrow p k f B x.toNat (fromnarrow p k f B x) := by
  have hsign : (x.getLsbD (k + f)).toNat = x.toNat / 2 ^ (k + f) := by
    rw [BitVec.getLsbD, Nat.toNat_testBit, Nat.mod_eq_of_lt (narrowSign_lt x.isLt)]
  have hexpo : (x.extractLsb' f k).toNat = x.toNat / 2 ^ f % 2 ^ k := by
    rw [BitVec.extractLsb'_toNat, Nat.shiftRight_eq_div_pow]
  have hfrac : (x.extractLsb' 0 f).toNat = x.toNat % 2 ^ f := by
    rw [BitVec.extractLsb'_toNat, Nat.shiftRight_zero]
  have expo_lt : x.toNat / 2 ^ f % 2 ^ k < 2 ^ k := Nat.mod_lt _ (by positivity)
  have wideFrac := fits.wideFrac_lt (Nat.mod_lt x.toNat (by positivity : 0 < 2 ^ f))
  have expoLe := fits.expoLe
  simp only [IsFromNarrow, fromnarrow, hexpo, hfrac, ← hsign]
  generalize x.toNat / 2 ^ f % 2 ^ k = E at *
  generalize x.toNat % 2 ^ f = F at *
  by_cases special : E = 2 ^ k - 1
  · rw [if_pos special, if_pos special]
    exact pack_ofNat_eq_quad _ (by decide) wideFrac
  rw [if_neg special, if_neg special]
  by_cases zeroExpo : E = 0
  · rw [if_pos zeroExpo, if_pos zeroExpo]
    by_cases zero : F = 0
    · rw [if_pos zero, if_pos (.inl zero)]
      exact pack_zero _
    · rw [if_neg zero]
      cases p.srcSubnormal
      · rw [if_pos (.inr rfl)]
        exact pack_zero _
      · rw [if_neg (by simp [zero])]
        exact roundpack_nat_rounds _ _ (Nat.pos_of_ne_zero zero)
  · rw [if_neg zeroExpo, if_neg zeroExpo]
    exact pack_ofNat_eq_quad _ (by omega) wideFrac

/-- R150: each branch packs its fields, and only the last one's exponent and fraction come from the operand. -/
theorem toNat_tonarrow (a : Quad) : (tonarrow k f B a).toNat = toNarrow k f B a := by
  have ones : (BitVec.allOnes k).toNat = 2 ^ k - 1 := BitVec.toNat_allOnes
  have nanFrac : (BitVec.twoPow f (f - 1)).toNat = 2 ^ (f - 1) :=
    BitVec.toNat_twoPow_of_lt (Nat.sub_one_lt fits.fracPos.ne')
  have hfrac : ((frac a).extractLsb' (112 - f) f).toNat = fracOf a / 2 ^ (112 - f) := by
    rw [BitVec.extractLsb'_toNat, Nat.shiftRight_eq_div_pow, fracOf_eq]
    refine Nat.mod_eq_of_lt (Nat.div_lt_of_lt_mul ?_)
    rw [← pow_add, Nat.sub_add_cancel fits.fracLe]
    exact (frac a).isLt
  simp only [tonarrow, toNarrow, narrowNaN, isNaN_iff, isInf_iff, isz_iff, signOf_eq, ← expoOf_eq]
  split_ifs with nan inf zero overflow underflow
  · simp [packNarrow_toNat, ones, nanFrac]
  · simp [packNarrow_toNat, ones]
  · simp [packNarrow_toNat]
  · simp [packNarrow_toNat, ones]
  · simp [packNarrow_toNat]
  · have hexpo : (BitVec.ofInt k ((expoOf a : ℤ) - 16383 + B)).toNat = expoOf a + B - 16383 := by
      rw [BitVec.toNat_ofInt, Int.emod_eq_of_lt (by omega) (by push_cast; omega)]
      omega
    rw [packNarrow_toNat, hexpo, hfrac]

/-- The exponent of a normal narrow float is biased back, and its fraction shifted back. -/
theorem toNarrow_normal {s E F : Nat} (hs : s < 2) (pos : 0 < E) (lt : E < 2 ^ k - 1) (hF : F < 2 ^ f) :
    toNarrow k f B (quad s (E + 16383 - B) (F * 2 ^ (112 - f))) = s * 2 ^ (k + f) + E * 2 ^ f + F := by
  have wideFrac := fits.wideFrac_lt hF
  obtain ⟨-, -, biasLe, expoLe⟩ := fits
  have hexpo := expoOf_quad s (e := E + 16383 - B) (by omega) wideFrac
  have unbiased : ((E + 16383 - B : Nat) : ℤ) - 16383 + B = E := by omega
  have noOverflow : ¬(2 ^ k - 1 : ℤ) ≤ E := by
    rw [← Nat.cast_ofNat, ← Nat.cast_pow]
    omega
  rw [toNarrow, if_neg (by omega), if_neg (by omega), if_neg (by omega), hexpo, unbiased, if_neg noOverflow,
    if_neg (by omega), signOf_quad hs (by omega) wideFrac, fracOf_quad s _ wideFrac,
    Nat.mul_div_cancel _ (by positivity), show E + 16383 - B + B - 16383 = E by omega]

/-- R151: a zero, an infinite or a normal narrow float comes back. -/
theorem toNarrow_of_isFromNarrow {p : Params} {x : Nat} {r : Quad} (hx : x < 2 ^ (1 + k + f))
    (keeps : x / 2 ^ f % 2 ^ k = 0 ∨ x / 2 ^ f % 2 ^ k = 2 ^ k - 1 → x % 2 ^ f = 0) (hr : IsFromNarrow p k f B x r) :
    toNarrow k f B r = x := by
  have hs := narrowSign_lt hx
  have fields := narrow_eq_fields k f x
  have expo_lt : x / 2 ^ f % 2 ^ k < 2 ^ k := Nat.mod_lt _ (by positivity)
  have frac_lt : x % 2 ^ f < 2 ^ f := Nat.mod_lt _ (by positivity)
  simp only [IsFromNarrow] at hr
  generalize x / 2 ^ f % 2 ^ k = E at *
  generalize x % 2 ^ f = F at *
  by_cases special : E = 2 ^ k - 1
  · obtain rfl := keeps (.inr special)
    rw [if_pos special, Nat.zero_mul] at hr
    rw [hr, toNarrow_inf hs, ← special]
    exact fields
  rw [if_neg special] at hr
  by_cases zero : E = 0
  · obtain rfl := keeps (.inl zero)
    rw [if_pos zero, if_pos (.inl rfl)] at hr
    rw [hr, toNarrow_zero hs]
    simpa [zero] using fields
  · rw [if_neg zero] at hr
    rw [hr, toNarrow_normal fits hs (by omega) (by omega) frac_lt, fields]

/-- R151 on the machine's conversions, the wide pattern passing through a register. -/
theorem tonarrow_fromnarrow (p : Params) {x : BitVec (1 + k + f)}
    (keeps : x.toNat / 2 ^ f % 2 ^ k = 0 ∨ x.toNat / 2 ^ f % 2 ^ k = 2 ^ k - 1 → x.toNat % 2 ^ f = 0) :
    tonarrow k f B ((place (fromnarrow p k f B x)).setWidth 128) = x := by
  apply BitVec.eq_of_toNat_eq
  rw [← quadIn_eq, quadIn_place, toNat_tonarrow fits]
  exact toNarrow_of_isFromNarrow fits x.isLt keeps (fromnarrow_isFromNarrow fits p x)

end

/-! ## The commands -/

theorem completeWith_res_toNat {n : Nat} (hn : n ≤ 256) (r : BitVec n) (s : State) :
    (completeWith r s).res.toNat = r.toNat := BitVec.toNat_setWidth_of_le hn

/-- Settles O46: the operand's fields are those of its number. -/
theorem narrowFloatsWiden : Obligations.NarrowFloatsWiden := by
  refine ⟨decode_encode .fcvtQS, decode_encode .fcvtQD, fun s => ?_⟩
  simp only [← toNat_setWidth_eq_low]
  exact ⟨⟨_, gives_completeWith (by decide) _ s, fromnarrow_isFromNarrow float32_fitsQuad s.params s.a32⟩,
    ⟨_, gives_completeWith (by decide) _ s, fromnarrow_isFromNarrow float64_fitsQuad s.params s.a64⟩⟩

/-- Settles O48: the operand's class and fields decide the narrow pattern, as a number too. -/
theorem narrowFloatsTruncate : Obligations.NarrowFloatsTruncate := by
  refine ⟨decode_encode .fcvtSQ, decode_encode .fcvtDQ, fun s => ?_⟩
  rw [quadIn_eq, ← toNat_tonarrow float32_fitsQuad, ← toNat_tonarrow float64_fitsQuad]
  exact ⟨gives_completeWith (by decide) (tonarrow 8 23 127 s.a128) s,
    gives_completeWith (by decide) (tonarrow 11 52 1023 s.a128) s⟩

/-- Settles O49: the second command reads the pattern the first one left in RES. -/
theorem narrowFloatsRoundTrip : Obligations.NarrowFloatsRoundTrip := by
  simp only [Obligations.NarrowFloatsRoundTrip, ← toNat_setWidth_eq_low]
  have back {n : Nat} (hn : n ≤ 256) {x y : BitVec n} (same : x = y) (t : State) :
      (completeWith x t).res.toNat = y.toNat := by rw [completeWith_res_toNat hn, same]
  exact fun s =>
    ⟨fun keeps => ⟨_, _, rfl, rfl, back (by decide) (tonarrow_fromnarrow float64_fitsQuad s.params keeps) _⟩,
      fun keeps => ⟨_, _, rfl, rfl, back (by decide) (tonarrow_fromnarrow float32_fitsQuad s.params keeps) _⟩⟩

end Sys2Proof.Machine
end

section
/-! Binary128 to integers (41_fp_conversion.md R141 to R147): truncation toward zero, and the target's range. -/

namespace Sys2Proof.Machine

open Sys2Proof.Claims

/-- Truncation toward zero: the magnitude is the floor of the value (R141). -/
theorem truncInt_eq (a : Quad) : truncInt a = truncated a := by
  have floor : ⌊val a⌋ = (sig a * 2 ^ (scale a).toNat / 2 ^ (-scale a).toNat : Nat) := by
    rw [val_eq, two_zpow_eq_div, ← mul_div_assoc, ← Nat.cast_mul, Rat.floor_natCast_div_natCast, Int.natCast_div]
  rw [truncated, floor, signOf_eq, truncInt]
  cases sign a <;> simp

/-- A two's complement pattern as a number. -/
theorem toNat_ofInt_cast (n : Nat) (t : ℤ) : ((BitVec.ofInt n t).toNat : ℤ) = t % 2 ^ n := by
  rw [BitVec.toNat_ofInt, Int.toNat_of_nonneg (Int.emod_nonneg _ (by positivity))]
  norm_cast

/-- R141, for a target whose range runs from lo to hi. -/
theorem toint_isToInt (p : Params) (draw : Wide) {signed : Bool} {n : Nat} {lo hi : ℤ}
    (range : ∀ t, inRange signed n t = true ↔ lo ≤ t ∧ t < hi) (a : Quad) :
    IsToInt p n lo hi a (toint p draw signed n a).toNat := by
  simp only [IsToInt, toint, Bool.or_eq_true, isNaN_iff, isInf_iff, isz_iff, range, truncInt_eq]
  split_ifs with special zero fits
  · rfl
  · rfl
  · exact toNat_ofInt_cast n _
  · intro wrap
    rw [wrap]
    exact toNat_ofInt_cast n _

theorem inRange_signed (n : Nat) (t : ℤ) : inRange true n t = true ↔ -2 ^ (n - 1) ≤ t ∧ t < 2 ^ (n - 1) :=
  decide_eq_true_iff

theorem inRange_unsigned (n : Nat) (t : ℤ) : inRange false n t = true ↔ 0 ≤ t ∧ t < 2 ^ n := decide_eq_true_iff

/-- Settles O47: each command converts the pattern in the low half of LA for its own range. -/
theorem integersTruncateTowardZero : Obligations.IntegersTruncateTowardZero := by
  refine ⟨decode_encode .fcvtWQ, decode_encode .fcvtWUQ, decode_encode .fcvtLQ, decode_encode .fcvtLUQ,
    decode_encode .fcvtU128Q, decode_encode .fcvtU256Q, fun s => ?_⟩
  rw [quadIn_eq]
  have converts {signed : Bool} {n : Nat} {lo hi : ℤ} (hn : n ≤ 256)
      (range : ∀ t, inRange signed n t = true ↔ lo ≤ t ∧ t < hi) :
      ∃ r : Nat, r < 2 ^ n ∧
        Gives (.next (completeWith (toint s.params s.draw signed n s.a128) s)) (completed s r 0 .none) ∧
        IsToInt s.params n lo hi s.a128 r :=
    ⟨_, BitVec.isLt _, gives_completeWith hn _ s, toint_isToInt s.params s.draw range s.a128⟩
  exact ⟨converts (by decide) (inRange_signed 32), converts (by decide) (inRange_unsigned 32),
    converts (by decide) (inRange_signed 64), converts (by decide) (inRange_unsigned 64),
    converts (by decide) (inRange_unsigned 128), converts (by decide) (inRange_unsigned 256)⟩

end Sys2Proof.Machine
end

section
/-! The integer commands but for division (42_integer.md R170 to R184): each operation on W-bit operands as a number, and the
laws they obey. -/

namespace Sys2Proof.Machine

open Sys2Proof.Claims

/-! ## Arithmetic (R171 to R173) -/

/-- A completion with an n-bit result, given as a number. -/
theorem gives_of_toNat_eq {n r : Nat} (hn : n ≤ 256) {x : BitVec n} (hx : x.toNat = r) (s : State) :
    Gives (.next (completeWith x s)) (completed s r 0 .none) := hx ▸ gives_completeWith hn x s

section
variable {W : Nat} (hW : W ≤ 256) (a b : BitVec W) (s : State)
include hW

theorem gives_add : Gives (.next (completeWith (a + b) s)) (completed s ((a.toNat + b.toNat) % 2 ^ W) 0 .none) :=
  gives_of_toNat_eq hW (BitVec.toNat_add a b) s

theorem gives_sub :
    Gives (.next (completeWith (a - b) s)) (completed s ((a.toNat + (2 ^ W - b.toNat)) % 2 ^ W) 0 .none) :=
  gives_of_toNat_eq hW (by rw [BitVec.toNat_sub, Nat.add_comm]) s

theorem gives_mul : Gives (.next (completeWith (a * b) s)) (completed s (a.toNat * b.toNat % 2 ^ W) 0 .none) :=
  gives_of_toNat_eq hW (BitVec.toNat_mul a b) s

end

/-- Settles O50: the operations of `BitVec W` wrap as the rules do. -/
theorem integerArithmeticWraps : Obligations.IntegerArithmeticWraps := by
  refine ⟨decode_encode .addU128, decode_encode .subU128, decode_encode .mulU128, decode_encode .addU256,
    decode_encode .subU256, decode_encode .mulU256, fun s => ?_⟩
  simp only [← toNat_setWidth_eq_low]
  have h128 : 128 ≤ 256 := by decide
  exact ⟨⟨gives_add h128 s.a128 s.b128 s, gives_sub h128 s.a128 s.b128 s, gives_mul h128 s.a128 s.b128 s⟩,
    ⟨gives_add le_rfl s.a256 s.b256 s, gives_sub le_rfl s.a256 s.b256 s, gives_mul le_rfl s.a256 s.b256 s⟩⟩

/-! ## Bitwise commands (R174 to R177) -/

/-- The outcome is a completion whose result has W bits, each the function f of the operands' bits at its place. -/
def ActsBitwise (W : Nat) (f : Bool → Bool → Bool) (s : State) (o : Host.Outcome State Fault Refusal) : Prop :=
  ∃ r : Nat, Gives o (completed s r 0 .none) ∧ r < 2 ^ W ∧ ∀ k < W, r.testBit k = f (s.la.getLsbD k) (s.lb.getLsbD k)

section
variable {W : Nat} (hW : W ≤ 256) {a b : BitVec W} {s : State}
include hW

theorem actsBitwise_completeWith {f : Bool → Bool → Bool} {x : BitVec W}
    (hx : ∀ k < W, x.getLsbD k = f (s.la.getLsbD k) (s.lb.getLsbD k)) :
    ActsBitwise W f s (.next (completeWith x s)) :=
  ⟨x.toNat, gives_completeWith hW x s, x.isLt, hx⟩

variable (ha : ∀ k < W, a.getLsbD k = s.la.getLsbD k) (hb : ∀ k < W, b.getLsbD k = s.lb.getLsbD k)
include ha

theorem not_actsBitwise : ActsBitwise W (fun x _ => !x) s (.next (completeWith (~~~a) s)) :=
  actsBitwise_completeWith hW fun k hk => by simp [hk, ← ha k hk]

include hb

theorem and_actsBitwise : ActsBitwise W (· && ·) s (.next (completeWith (a &&& b) s)) :=
  actsBitwise_completeWith hW fun k hk => by rw [BitVec.getLsbD_and, ha k hk, hb k hk]

theorem or_actsBitwise : ActsBitwise W (· || ·) s (.next (completeWith (a ||| b) s)) :=
  actsBitwise_completeWith hW fun k hk => by rw [BitVec.getLsbD_or, ha k hk, hb k hk]

theorem xor_actsBitwise : ActsBitwise W xor s (.next (completeWith (a ^^^ b) s)) :=
  actsBitwise_completeWith hW fun k hk => by rw [BitVec.getLsbD_xor, ha k hk, hb k hk]

end

/-- Settles O51: the operations of `BitVec W` act on each bit, and a NOT covers the W bits only. -/
theorem bitwiseCommandsActBitByBit : Obligations.BitwiseCommandsActBitByBit := by
  refine ⟨decode_encode .andU128, decode_encode .orU128, decode_encode .xorU128, decode_encode .notU128,
    decode_encode .andU256, decode_encode .orU256, decode_encode .xorU256, decode_encode .notU256, fun s => ?_⟩
  have h128 : 128 ≤ 256 := by decide
  have a128 : ∀ k < 128, s.a128.getLsbD k = s.la.getLsbD k := fun k hk => by simp [State.a128, hk]
  have b128 : ∀ k < 128, s.b128.getLsbD k = s.lb.getLsbD k := fun k hk => by simp [State.b128, hk]
  have a256 : ∀ k < 256, s.a256.getLsbD k = s.la.getLsbD k := fun _ _ => rfl
  have b256 : ∀ k < 256, s.b256.getLsbD k = s.lb.getLsbD k := fun _ _ => rfl
  exact ⟨and_actsBitwise h128 a128 b128, or_actsBitwise h128 a128 b128, xor_actsBitwise h128 a128 b128,
    not_actsBitwise h128 a128, and_actsBitwise le_rfl a256 b256, or_actsBitwise le_rfl a256 b256,
    xor_actsBitwise le_rfl a256 b256, not_actsBitwise le_rfl a256⟩

/-! ## Shifts (R178 to R180) -/

theorem toNat_shiftLeft_eq_mul {W : Nat} (a : BitVec W) (k : Nat) : (a <<< k).toNat = a.toNat * 2 ^ k % 2 ^ W := by
  rw [BitVec.toNat_shiftLeft, Nat.shiftLeft_eq]

theorem toNat_ushiftRight_eq_div {W : Nat} (a : BitVec W) (k : Nat) : (a >>> k).toNat = a.toNat / 2 ^ k := by
  rw [BitVec.toNat_ushiftRight, Nat.shiftRight_eq_div_pow]

section
variable {W : Nat} {p : Params} (sh : BitVec W → Nat → BitVec W) (a : BitVec W) {n : BitVec W}

theorem shiftBy_of_lt (h : n.toNat < W) : shiftBy p sh a n = sh a n.toNat := if_pos h

theorem shiftBy_oversize_zero (h : W ≤ n.toNat) (hp : p.shiftOversize = .zero) : shiftBy p sh a n = 0 := by
  rw [shiftBy, if_neg (by omega), hp]

theorem shiftBy_oversize_mask (h : W ≤ n.toNat) (hp : p.shiftOversize = .mask) :
    shiftBy p sh a n = sh a (n.toNat % W) := by
  rw [shiftBy, if_neg (by omega), hp]

end

theorem gives_shift {W : Nat} (hW : W ≤ 256) (a : BitVec W) (k : Nat) (s : State) :
    Gives (.next (completeWith (a <<< k) s)) (completed s (a.toNat * 2 ^ k % 2 ^ W) 0 .none) ∧
      Gives (.next (completeWith (a >>> k) s)) (completed s (a.toNat / 2 ^ k) 0 .none) :=
  ⟨gives_of_toNat_eq hW (toNat_shiftLeft_eq_mul a k) s, gives_of_toNat_eq hW (toNat_ushiftRight_eq_div a k) s⟩

/-- R178 to R180 for both directions, n below the width and, by policy, not. -/
theorem gives_shifts {W : Nat} (hW : W ≤ 256) (a n : BitVec W) (s : State) :
    let left : Host.Outcome State Fault Refusal := .next (completeWith (shl s.params a n) s)
    let right : Host.Outcome State Fault Refusal := .next (completeWith (shr s.params a n) s)
    (n.toNat < W → Gives left (completed s (a.toNat * 2 ^ n.toNat % 2 ^ W) 0 .none) ∧
      Gives right (completed s (a.toNat / 2 ^ n.toNat) 0 .none)) ∧
    (W ≤ n.toNat → s.params.shiftOversize = .zero → Gives left (completed s 0 0 .none) ∧
      Gives right (completed s 0 0 .none)) ∧
    (W ≤ n.toNat → s.params.shiftOversize = .mask →
      Gives left (completed s (a.toNat * 2 ^ (n.toNat % W) % 2 ^ W) 0 .none) ∧
      Gives right (completed s (a.toNat / 2 ^ (n.toNat % W)) 0 .none)) := by
  refine ⟨fun small => ?_, fun oversize zero => ?_, fun oversize mask => ?_⟩
  · rw [shl, shr, shiftBy_of_lt _ a small, shiftBy_of_lt _ a small]
    exact gives_shift hW a _ s
  · rw [shl, shr, shiftBy_oversize_zero _ a oversize zero, shiftBy_oversize_zero _ a oversize zero]
    exact ⟨gives_of_toNat_eq hW BitVec.toNat_zero s, gives_of_toNat_eq hW BitVec.toNat_zero s⟩
  · rw [shl, shr, shiftBy_oversize_mask _ a oversize mask, shiftBy_oversize_mask _ a oversize mask]
    exact gives_shift hW a _ s

/-- Settles O52: the amount is the whole W-bit operand B, at each width. -/
theorem shiftsFollowTheWholeAmount : Obligations.ShiftsFollowTheWholeAmount := by
  refine ⟨decode_encode .shlU128, decode_encode .shrU128, decode_encode .shlU256, decode_encode .shrU256, fun s => ?_⟩
  simp only [← toNat_setWidth_eq_low]
  exact ⟨gives_shifts (by decide) s.a128 s.b128 s, gives_shifts le_rfl s.a256 s.b256 s⟩

/-! ## Compare (R181) -/

theorem toNat_cmpu {W : Nat} (a b : BitVec W) :
    (cmpu a b).toNat = (if a.toNat = b.toNat then 1 else 0) + if a.toNat < b.toNat then 2 else 0 := by
  have equal : (a == b) = decide (a.toNat = b.toNat) := by
    rw [Bool.beq_eq_decide_eq, decide_eq_decide, BitVec.toNat_inj]
  rw [cmpu, toNat_append_eq_add, BitVec.toNat_ofBool, BitVec.toNat_ofBool, BitVec.ult_eq_decide, equal]
  by_cases less : a.toNat < b.toNat
  · simp [less, less.ne]
  · by_cases same : a.toNat = b.toNat <;> simp [less, same]

/-- Settles O53: the two bits as a number. -/
theorem compareSetsEqualAndLess : Obligations.CompareSetsEqualAndLess := by
  refine ⟨decode_encode .cmpuU128, decode_encode .cmpuU256, fun s => ?_⟩
  simp only [← toNat_setWidth_eq_low]
  exact ⟨gives_of_toNat_eq (by decide) (toNat_cmpu s.a128 s.b128) s,
    gives_of_toNat_eq (by decide) (toNat_cmpu s.a256 s.b256) s⟩

/-! ## Bit queries (R182, R183) -/

section
variable {W : Nat}

theorem toNat_highbit_zero : (highbit (0 : BitVec W)).toNat = 2 ^ W - 1 := by
  rw [highbit, if_pos rfl, BitVec.toNat_allOnes]

theorem toNat_lowbit_zero : (lowbit (0 : BitVec W)).toNat = 2 ^ W - 1 := by
  rw [lowbit, List.find?_range_eq_none.2 (by simp), BitVec.toNat_allOnes]

theorem toNat_highbit {a : BitVec W} (ha : a.toNat ≠ 0) : (highbit a).toNat = a.toNat.log2 := by
  have index : a.toNat.log2 < W := (Nat.log2_lt ha).2 a.isLt
  rw [highbit, if_neg (fun zero => ha (congrArg BitVec.toNat zero)), BitVec.toNat_ofNat,
    Nat.mod_eq_of_lt (index.trans Nat.lt_two_pow_self)]

theorem toNat_lowbit {a : BitVec W} (ha : a.toNat ≠ 0) :
    a.getLsbD (lowbit a).toNat = true ∧ ∀ j < (lowbit a).toNat, a.getLsbD j = false := by
  unfold lowbit
  split
  next l found =>
    obtain ⟨bit, index, below⟩ := List.find?_range_eq_some.1 found
    rw [BitVec.toNat_ofNat, Nat.mod_eq_of_lt ((List.mem_range.1 index).trans Nat.lt_two_pow_self)]
    exact ⟨bit, fun j hj => by simpa using below j hj⟩
  next none =>
    have zero : a = 0 := BitVec.eq_of_getLsbD_eq fun i hi => by
      simpa using List.find?_range_eq_none.1 none i hi
    exact absurd (congrArg BitVec.toNat zero) ha

theorem gives_bitQueries_zero (hW : W ≤ 256) {a : BitVec W} (ha : a.toNat = 0) (s : State) :
    Gives (.next (completeWith (highbit a) s)) (completed s (2 ^ W - 1) 0 .none) ∧
      Gives (.next (completeWith (lowbit a) s)) (completed s (2 ^ W - 1) 0 .none) := by
  obtain rfl : a = 0 := BitVec.eq_of_toNat_eq ha
  exact ⟨gives_of_toNat_eq hW toNat_highbit_zero s, gives_of_toNat_eq hW toNat_lowbit_zero s⟩

theorem gives_bitQueries (hW : W ≤ 256) {a : BitVec W} (ha : a.toNat ≠ 0) (s : State) :
    ∃ h l : Nat, Gives (.next (completeWith (highbit a) s)) (completed s h 0 .none) ∧
      2 ^ h ≤ a.toNat ∧ a.toNat < 2 ^ (h + 1) ∧ Gives (.next (completeWith (lowbit a) s)) (completed s l 0 .none) ∧
      a.toNat.testBit l = true ∧ ∀ j < l, a.toNat.testBit j = false :=
  ⟨a.toNat.log2, (lowbit a).toNat, gives_of_toNat_eq hW (toNat_highbit ha) s, Nat.log2_self_le ha, Nat.lt_log2_self,
    gives_completeWith hW _ s, toNat_lowbit ha⟩

end

/-- Settles O54: the highest bit is the binary logarithm, and the search for the lowest one meets no set bit before it. -/
theorem bitQueriesFindTheBit : Obligations.BitQueriesFindTheBit := by
  refine ⟨decode_encode .highbitU128, decode_encode .lowbitU128, decode_encode .highbitU256, decode_encode .lowbitU256,
    fun s => ?_⟩
  simp only [← toNat_setWidth_eq_low]
  have h128 : 128 ≤ 256 := by decide
  exact ⟨⟨fun zero => gives_bitQueries_zero (a := s.a128) h128 zero s,
      fun nonzero => gives_bitQueries (a := s.a128) h128 nonzero s⟩,
    ⟨fun zero => gives_bitQueries_zero (a := s.a256) le_rfl zero s,
      fun nonzero => gives_bitQueries (a := s.a256) le_rfl nonzero s⟩⟩

/-! ## Laws (R184) -/

/-- What the commands in the laws compute at the width W. -/
structure IntegerCommands (s : State) (add sub mul not shl xor cmpu : Instr) (W : Nat) : Prop where
  width : 1 < W := by decide
  fits : W ≤ 256 := by decide
  add (x y : Wide) : resultOf add s x y = some (place (x.setWidth W + y.setWidth W))
  sub (x y : Wide) : resultOf sub s x y = some (place (x.setWidth W - y.setWidth W))
  mul (x y : Wide) : resultOf mul s x y = some (place (x.setWidth W * y.setWidth W))
  not (x y : Wide) : resultOf not s x y = some (place (~~~x.setWidth W))
  shl (x y : Wide) : resultOf shl s x y = some (place (Machine.shl s.params (x.setWidth W) (y.setWidth W)))
  xor (x y : Wide) : resultOf xor s x y = some (place (x.setWidth W ^^^ y.setWidth W))
  cmpu (x y : Wide) : resultOf cmpu s x y = some (place (Machine.cmpu (x.setWidth W) (y.setWidth W)))

theorem integerCommands_u128 (s : State) :
    IntegerCommands s .addU128 .subU128 .mulU128 .notU128 .shlU128 .xorU128 .cmpuU128 128 where
  add _ _ := rfl
  sub _ _ := rfl
  mul _ _ := rfl
  not _ _ := rfl
  shl _ _ := rfl
  xor _ _ := rfl
  cmpu _ _ := rfl

theorem integerCommands_u256 (s : State) :
    IntegerCommands s .addU256 .subU256 .mulU256 .notU256 .shlU256 .xorU256 .cmpuU256 256 where
  add _ _ := rfl
  sub _ _ := rfl
  mul _ _ := rfl
  not _ _ := rfl
  shl _ _ := rfl
  xor _ _ := rfl
  cmpu _ _ := rfl

theorem setWidth_place {W : Nat} (hW : W ≤ 256) (v : BitVec W) : (place v).setWidth W = v := by
  rw [place, BitVec.setWidth_setWidth_of_le v hW, BitVec.setWidth_eq]

theorem setWidth_one_eq {W : Nat} (hW : W ≤ 256) : (1 : Wide).setWidth W = 1#W := BitVec.setWidth_ofNat_of_le hW 1

/-- One is below any width of more than one bit, so the policy for oversize amounts has no say. -/
theorem shl_one {W : Nat} (hW : 1 < W) (p : Params) (a : BitVec W) : shl p a 1#W = a + a := by
  have one : (1#W).toNat = 1 := BitVec.toNat_one (by omega)
  rw [shl, shiftBy_of_lt _ a (by omega), one]
  exact BitVec.eq_of_toNat_eq (by rw [toNat_shiftLeft_eq_mul, BitVec.toNat_add, pow_one, Nat.mul_two])

section
variable {s : State} {add sub mul not shl xor cmpu : Instr} {W : Nat}
  (commands : IntegerCommands s add sub mul not shl xor cmpu W) (x y z : Wide)
include commands

theorem resultOf_add_comm : resultOf add s x y = resultOf add s y x := by
  rw [commands.add, commands.add, BitVec.add_comm]

theorem resultOf_mul_comm : resultOf mul s x y = resultOf mul s y x := by
  rw [commands.mul, commands.mul, BitVec.mul_comm]

theorem resultOf_add_assoc : ((resultOf add s x y).bind fun v => resultOf add s v z) =
    (resultOf add s y z).bind fun v => resultOf add s x v := by
  simp only [commands.add, Option.bind_some, setWidth_place commands.fits, BitVec.add_assoc]

theorem resultOf_mul_assoc : ((resultOf mul s x y).bind fun v => resultOf mul s v z) =
    (resultOf mul s y z).bind fun v => resultOf mul s x v := by
  simp only [commands.mul, Option.bind_some, setWidth_place commands.fits, BitVec.mul_assoc]

theorem resultOf_sub_eq : resultOf sub s x y =
    (resultOf not s y z).bind fun v => (resultOf add s v 1).bind fun u => resultOf add s x u := by
  simp only [commands.sub, commands.not, commands.add, Option.bind_some, setWidth_place commands.fits,
    setWidth_one_eq commands.fits, BitVec.sub_eq_add_neg, BitVec.neg_eq_not_add]

theorem resultOf_shl_one : resultOf shl s x 1 = resultOf add s x x := by
  rw [commands.shl, commands.add, setWidth_one_eq commands.fits, shl_one commands.width]

theorem resultOf_xor_self : resultOf xor s x x = some 0 := by
  rw [commands.xor, BitVec.xor_self]
  simp [place]

theorem resultOf_cmpu : (resultOf cmpu s x y = some 1 ∧ low W x = low W y) ∨
    (resultOf cmpu s x y = some 2 ∧ low W x < low W y) ∨ (resultOf cmpu s x y = some 0 ∧ low W y < low W x) := by
  have result (r : Nat) (hr : (Machine.cmpu (x.setWidth W) (y.setWidth W)).toNat = r) :
      resultOf cmpu s x y = some (BitVec.ofNat 256 r) := by
    rw [commands.cmpu, ← hr, BitVec.ofNat_toNat, place]
  rw [toNat_cmpu, toNat_setWidth_eq_low, toNat_setWidth_eq_low] at result
  obtain less | same | greater := lt_trichotomy (low W x) (low W y)
  · exact .inr (.inl ⟨result 2 (by rw [if_neg less.ne, if_pos less]), less⟩)
  · exact .inl ⟨result 1 (by rw [if_pos same, if_neg same.not_lt]), same⟩
  · exact .inr (.inr ⟨result 0 (by rw [if_neg greater.ne', if_neg greater.not_gt]), greater⟩)

end

/-- Settles O55: the laws are those of `BitVec W`, since a result placed in RES reads back as the W-bit operand it was. -/
theorem integerLawsHold : Obligations.IntegerLawsHold := by
  intro s x y z
  have u128 := integerCommands_u128 s
  have u256 := integerCommands_u256 s
  exact ⟨⟨resultOf_add_comm u128 x y, resultOf_mul_comm u128 x y, resultOf_add_assoc u128 x y z,
      resultOf_mul_assoc u128 x y z, resultOf_sub_eq u128 x y z, resultOf_shl_one u128 x, resultOf_xor_self u128 x,
      resultOf_cmpu u128 x y⟩,
    ⟨resultOf_add_comm u256 x y, resultOf_mul_comm u256 x y, resultOf_add_assoc u256 x y z,
      resultOf_mul_assoc u256 x y z, resultOf_sub_eq u256 x y z, resultOf_shl_one u256 x, resultOf_xor_self u256 x,
      resultOf_cmpu u256 x y⟩⟩

end Sys2Proof.Machine
end

section
/-! The integer division commands (43_long_division.md R210 to R215): quotient and remainder of W-bit operands as numbers,
and the divide by zero. -/

namespace Sys2Proof.Machine

open Sys2Proof.Claims

/-- A division command's outcome, with the divisor and its two results given as numbers. -/
theorem gives_divide {W : Nat} (hW : W ≤ 256) {a b : BitVec W} {f g : BitVec W → BitVec W → BitVec W} {res rem : Nat}
    (hres : (f (a / b) (a % b)).toNat = res) (hrem : (g (a / b) (a % b)).toNat = rem) (s : State) :
    Gives (.next (divide a b f g s)) (dividedOr s b.toNat res rem) := by
  have zero_iff : b.toNat = 0 ↔ b = 0 := BitVec.toNat_inj (y := 0)
  obtain ⟨zero, h⟩ | ⟨nonzero, h⟩ := divide_cases a b f g s
  · rw [h, dividedOr, if_pos (zero_iff.2 zero)]
    exact gives_complete 0 0 .divideByZero s
  · rw [h, dividedOr, if_neg (mt zero_iff.1 nonzero), ← hres, ← hrem, ← BitVec.toNat_setWidth_of_le hW,
      ← BitVec.toNat_setWidth_of_le hW]
    exact gives_complete _ _ .none s

/-- What the three commands do with the operands A and B, given as numbers (R212 to R214). -/
structure Divides (s : State) (div mod divrem : Instr) (A B : Nat) : Prop where
  div : Gives (exec div s) (dividedOr s B (A / B) 0)
  mod : Gives (exec mod s) (dividedOr s B (A % B) 0)
  divrem : Gives (exec divrem s) (dividedOr s B (A / B) (A % B))

/-- Commands that `divide` W-bit operands do so (R210). -/
theorem divides_of_exec_eq {W : Nat} (hW : W ≤ 256) {s : State} {div mod divrem : Instr} (a b : BitVec W)
    (hdiv : exec div s = .next (divide a b (fun q _ => q) (fun _ _ => 0) s))
    (hmod : exec mod s = .next (divide a b (fun _ r => r) (fun _ _ => 0) s))
    (hdivrem : exec divrem s = .next (divide a b (fun q _ => q) (fun _ r => r) s)) :
    Divides s div mod divrem a.toNat b.toNat := by
  constructor
  · rw [hdiv, ← BitVec.toNat_udiv]
    exact gives_divide hW rfl BitVec.toNat_zero s
  · rw [hmod, ← BitVec.toNat_umod]
    exact gives_divide hW rfl BitVec.toNat_zero s
  · rw [hdivrem, ← BitVec.toNat_udiv, ← BitVec.toNat_umod]
    exact gives_divide hW rfl rfl s

theorem divides_u128 (s : State) : Divides s .divU128 .modU128 .divremU128 (low 128 s.la) (low 128 s.lb) := by
  rw [← toNat_setWidth_eq_low, ← toNat_setWidth_eq_low]
  exact divides_of_exec_eq (by decide) s.a128 s.b128 rfl rfl rfl

theorem divides_u256 (s : State) : Divides s .divU256 .modU256 .divremU256 (low 256 s.la) (low 256 s.lb) := by
  rw [← toNat_setWidth_eq_low, ← toNat_setWidth_eq_low, BitVec.setWidth_eq, BitVec.setWidth_eq]
  exact divides_of_exec_eq le_rfl s.a256 s.b256 rfl rfl rfl

/-- Settles O56: the operations of `BitVec W` are quotient and remainder, and its zero test sees the W bits only. -/
theorem divisionIsExactOrDivideByZero : Obligations.DivisionIsExactOrDivideByZero := by
  refine ⟨decode_encode .divU128, decode_encode .modU128, decode_encode .divremU128, decode_encode .divU256,
    decode_encode .modU256, decode_encode .divremU256, fun s => ?_⟩
  obtain ⟨div128, mod128, divrem128⟩ := divides_u128 s
  obtain ⟨div256, mod256, divrem256⟩ := divides_u256 s
  exact ⟨⟨div128, mod128, divrem128⟩, div256, mod256, divrem256⟩

/-- R215, for any commands that divide: a 256-bit register holds the quotient and the remainder in full. -/
theorem Divides.identity {s : State} {div mod divrem : Instr} {A B : Nat} (h : Divides s div mod divrem A B)
    (hA : A < 2 ^ 256) (hB : B ≠ 0) :
    ∃ d m t : State, exec div s = .next d ∧ exec mod s = .next m ∧ exec divrem s = .next t ∧
      t.res.toNat * B + t.rem.toNat = A ∧ t.rem.toNat < B ∧ d.res = t.res ∧ m.res = t.rem := by
  obtain ⟨⟨_, _, hdiv⟩, ⟨_, _, hmod⟩, ⟨_, _, hdivrem⟩⟩ := h
  rw [dividedOr, if_neg hB] at hdiv hmod hdivrem
  have quotient : (BitVec.ofNat 256 (A / B)).toNat = A / B :=
    Nat.mod_eq_of_lt ((Nat.div_le_self A B).trans_lt hA)
  have remainder : (BitVec.ofNat 256 (A % B)).toNat = A % B :=
    Nat.mod_eq_of_lt ((Nat.mod_le A B).trans_lt hA)
  refine ⟨_, _, _, hdiv, hmod, hdivrem, ?_, ?_, rfl, rfl⟩
  · simp only [completed, quotient, remainder, Nat.div_add_mod']
  · simp only [completed, remainder, Nat.mod_lt A (Nat.pos_of_ne_zero hB)]

/-- Settles O57: the commands divide as O56 says, and the dividend fits a register. -/
theorem divisionIdentityHolds : Obligations.DivisionIdentityHolds := by
  intro s
  have fits (W : Nat) : low W s.la < 2 ^ 256 := (Nat.mod_le _ _).trans_lt s.la.isLt
  exact ⟨(divides_u128 s).identity (fits 128), (divides_u256 s).identity (fits 256)⟩

end Sys2Proof.Machine
end

section
/-! The reference algorithm of 43_long_division.md R216 against R217, in the order of KnuthD.lean's definitions: digits, what
a digit loop has still to divide, the estimate of a digit and its corrections, one digit position, and the whole division. -/

namespace Sys2Proof.Machine

/-! ## Digits -/

theorem digitBase_pos : 0 < digitBase := by decide

theorem digit_lt (x i : Nat) : digit x i < digitBase := Nat.mod_lt _ digitBase_pos

/-- The number in the digits from k on ends in digit k. -/
theorem div_digitBase_pow (x k : Nat) : x / digitBase ^ k = x / digitBase ^ (k + 1) * digitBase + digit x k := by
  rw [digit, pow_succ, ← Nat.div_div_eq_div_mul, Nat.div_add_mod']

/-- The top digit is all that stands from its place on. -/
theorem digit_top {x k : Nat} (h : x < digitBase ^ (k + 1)) : digit x k = x / digitBase ^ k :=
  Nat.mod_eq_of_lt (Nat.div_lt_of_lt_mul (by rwa [← pow_succ]))

theorem mod_digitBase_pow_succ (x k : Nat) :
    x % digitBase ^ (k + 1) = digit x k * digitBase ^ k + x % digitBase ^ k := by
  rw [pow_succ, Nat.mod_mul, digit, Nat.mul_comm, Nat.add_comm]

theorem digitBase_pow (k : Nat) : digitBase ^ k = 2 ^ (32 * k) := (pow_mul 2 32 k).symm

theorem lt_pow_digitCount (x : Nat) : x < digitBase ^ digitCount x := by
  rw [digitCount, digitBase_pow]
  split
  next zero => simp [zero]
  next nonzero => exact (Nat.log2_lt nonzero).1 (by omega)

theorem pow_digitCount_le {x : Nat} (hx : x ≠ 0) : digitBase ^ (digitCount x - 1) ≤ x := by
  rw [digitCount, if_neg hx, Nat.add_sub_cancel, digitBase_pow]
  exact (Nat.le_log2 hx).1 (Nat.mul_div_le _ _)

/-! ## Schoolbook division

Both digit loops carry a remainder r down the digits of u, the window `r * b + u_j` being divided at position j. -/

/-- What is still to be divided when the digits of u from j on have left the remainder r. -/
def undivided (u j r : Nat) : Nat := r * digitBase ^ j + u % digitBase ^ j

theorem undivided_zero (u r : Nat) : undivided u 0 r = r := by simp [undivided, Nat.mod_one]

theorem undivided_quotient (u j : Nat) : undivided u j (u / digitBase ^ j) = u := Nat.div_add_mod' _ _

theorem undivided_succ (u j r : Nat) : undivided u (j + 1) r = undivided u j (r * digitBase + digit u j) := by
  rw [undivided, undivided, mod_digitBase_pow_succ]
  ring

/-- The quotient of the window is the next digit of the quotient. -/
theorem undivided_window (u j w v : Nat) :
    undivided u j w = w / v * digitBase ^ j * v + undivided u j (w % v) := by
  rw [undivided, undivided]
  nth_rw 1 [← Nat.div_add_mod' w v]
  ring

theorem undivided_div {v : Nat} (hv : 0 < v) (u j w : Nat) :
    undivided u j w / v = w / v * digitBase ^ j + undivided u j (w % v) / v := by
  rw [undivided_window u j w v, Nat.add_comm, Nat.add_mul_div_right _ _ hv, Nat.add_comm]

theorem undivided_mod (u j w v : Nat) : undivided u j w % v = undivided u j (w % v) % v := by
  rw [undivided_window u j w v, Nat.mul_add_mod_self_right]

/-- The digits of a quotient before and after the next one. -/
theorem quotient_append_digit (q d j x : Nat) :
    (q * digitBase + d) * digitBase ^ j + x = q * digitBase ^ (j + 1) + (d * digitBase ^ j + x) := by ring

theorem shortDivide_zero (u v q r : Nat) : shortDivide u v 0 q r = (q, r) := rfl

/-- The equation of the definition. It is checked with b and the digits of u as variables: the kernel would otherwise
evaluate numbers of the size of b in unary. -/
theorem shortDivide_succ (u v j q r : Nat) : shortDivide u v (j + 1) q r = shortDivide u v j
    (q * digitBase + (r * digitBase + digit u j) / v) ((r * digitBase + digit u j) % v) := by
  delta shortDivide shortDivide._f
  generalize digitBase = b
  generalize digit u = d
  rfl

/-- The single-word-divisor path divides what is still to be divided, below the quotient q it has so far. -/
theorem shortDivide_eq {v : Nat} (hv : 0 < v) (u : Nat) : ∀ j q r : Nat, r < v →
    shortDivide u v j q r = (q * digitBase ^ j + undivided u j r / v, undivided u j r % v) := by
  intro j
  induction j with
  | zero =>
    intro q r hr
    simp [shortDivide_zero, undivided_zero, Nat.div_eq_of_lt hr, Nat.mod_eq_of_lt hr]
  | succ j ih =>
    intro q r _
    rw [shortDivide_succ, ih _ _ (Nat.mod_lt _ hv), undivided_succ, undivided_div hv u j (_ + _),
      undivided_mod u j (_ + _) v, quotient_append_digit]

/-! ## The correction loop (D3) -/

theorem correct_snd_le (vTop vNext uNext fuel : Nat) :
    ∀ qhat rhat, (correct vTop vNext uNext fuel qhat rhat).2 ≤ fuel := by
  induction fuel with
  | zero => exact fun _ _ => le_rfl
  | succ fuel ih =>
    intro qhat rhat
    rw [correct]
    split
    · exact Nat.succ_le_succ (ih _ _)
    · exact Nat.zero_le _

theorem correct_fst_le (vTop vNext uNext fuel : Nat) :
    ∀ qhat rhat, (correct vTop vNext uNext fuel qhat rhat).1 ≤ qhat := by
  induction fuel with
  | zero => exact fun _ _ => le_rfl
  | succ fuel ih =>
    intro qhat rhat
    rw [correct]
    split
    · exact (ih _ _).trans (Nat.sub_le _ _)
    · exact le_rfl

section
variable {vTop vNext uNext num : Nat}

/-- The test of the loop fires exactly on an estimate too big for the two leading digits of the divisor. -/
theorem guess_too_big_iff {qhat rhat : Nat} (hnum : qhat * vTop + rhat = num) :
    rhat * digitBase + uNext < qhat * vNext ↔
      num * digitBase + uNext < qhat * (vTop * digitBase + vNext) := by
  rw [← hnum, Nat.add_mul, Nat.mul_add, ← Nat.mul_assoc]
  omega

/-- A turn of the loop keeps `qhat * vTop + rhat`. -/
theorem turn_keeps_num {qhat rhat : Nat} (pos : 0 < qhat) (hnum : qhat * vTop + rhat = num) :
    (qhat - 1) * vTop + (rhat + vTop) = num := by
  obtain ⟨q, rfl⟩ := Nat.exists_eq_add_of_lt pos
  rw [← hnum, Nat.zero_add, Nat.add_sub_cancel]
  ring

/-- No correction takes the estimate below a digit that is not too big. -/
theorem le_correct_fst {q : Nat} (hq : q * (vTop * digitBase + vNext) ≤ num * digitBase + uNext) (fuel : Nat) :
    ∀ qhat rhat, qhat * vTop + rhat = num → q ≤ qhat → q ≤ (correct vTop vNext uNext fuel qhat rhat).1 := by
  induction fuel with
  | zero => exact fun _ _ _ h => h
  | succ fuel ih =>
    intro qhat rhat hnum le
    rw [correct]
    split
    next turn =>
      have tooBig := (guess_too_big_iff hnum).1 turn.2
      have lt : q < qhat := Nat.lt_of_mul_lt_mul_right (hq.trans_lt tooBig)
      exact ih _ _ (turn_keeps_num (by omega) hnum) (by omega)
    · exact le

/-- Where the loop stops, the estimate is not too big for the two leading digits of the divisor: its test says so, or rhat
is at least b and leaves room for any product of two digits. -/
theorem mul_le_of_stop (hnext : vNext < digitBase) {qhat rhat : Nat} (hnum : qhat * vTop + rhat = num)
    (lt : qhat < digitBase) (stop : ¬(rhat < digitBase ∧ rhat * digitBase + uNext < qhat * vNext)) :
    qhat * (vTop * digitBase + vNext) ≤ num * digitBase + uNext := by
  rw [← not_lt, ← guess_too_big_iff hnum]
  intro tooBig
  have product : qhat * vNext ≤ digitBase * digitBase := Nat.mul_le_mul lt.le hnext.le
  have room : digitBase * digitBase ≤ rhat * digitBase := Nat.mul_le_mul_right _ (by omega)
  omega

/-- With fuel for rhat to reach b, the loop stops by its own test. -/
theorem correct_fst_mul_le (hnext : vNext < digitBase) (fuel : Nat) :
    ∀ qhat rhat, qhat * vTop + rhat = num → qhat < digitBase → digitBase ≤ rhat + fuel * vTop →
      (correct vTop vNext uNext fuel qhat rhat).1 * (vTop * digitBase + vNext) ≤ num * digitBase + uNext := by
  induction fuel with
  | zero =>
    intro qhat rhat hnum lt enough
    exact mul_le_of_stop hnext hnum lt (by omega)
  | succ fuel ih =>
    intro qhat rhat hnum lt enough
    rw [correct]
    split
    next turn =>
      have pos : 0 < qhat := Nat.pos_of_mul_pos_right ((Nat.zero_le _).trans_lt turn.2)
      exact ih _ _ (turn_keeps_num pos hnum) (by omega) (by rw [Nat.add_mul] at enough; omega)
    next stop => exact mul_le_of_stop hnext hnum lt stop

end

/-! ## One digit position -/

theorem correctedEstimate_eq (fuel n vn win : Nat) : correctedEstimate fuel n vn win =
    correct (digit vn (n - 1)) (digit vn (n - 2)) (digit win (n - 2)) fuel (estimate n vn win).1 (estimate n vn win).2 :=
  rfl

/-- The corrected estimate, with the add-back where the subtraction would be negative (D4, D6). The definition is unfolded
as a function, so that the kernel does not evaluate the estimate. -/
theorem digitStep_eq {n vn win qhat k : Nat} (h : correctedEstimate 2 n vn win = (qhat, k)) : digitStep n vn win =
    { q := if win < qhat * vn then qhat - 1 else qhat
      t := if win < qhat * vn then win + vn - qhat * vn else win - qhat * vn
      clamped := clamps n vn win
      corrections := k
      addBack := decide (win < qhat * vn) } := by
  have unfolded : digitStep = digitStep := rfl
  conv_rhs at unfolded => delta digitStep
  rw [unfolded]
  beta_reduce
  rw [h]
  simp only [decide_eq_true_eq]

theorem digitStep_corrections (n vn win : Nat) : (digitStep n vn win).corrections = (correctedEstimate 2 n vn win).2 := by
  rcases h : correctedEstimate 2 n vn win with ⟨qhat, k⟩
  rw [digitStep_eq h]

theorem correctedEstimate_snd_le (fuel n vn win : Nat) : (correctedEstimate fuel n vn win).2 ≤ fuel := by
  rw [correctedEstimate_eq]
  exact correct_snd_le ..

/-- The true digit is not too big for the leading digits of divisor and window, from any place on. -/
theorem div_mul_div_pow_le (vn win i : Nat) : win / vn * (vn / digitBase ^ i) ≤ win / digitBase ^ i := by
  rw [Nat.le_div_iff_mul_le (Nat.pow_pos digitBase_pos), Nat.mul_assoc]
  exact (Nat.mul_le_mul_left _ (Nat.div_mul_le_self _ _)).trans (Nat.div_mul_le_self _ _)

/-- A normalised divisor of k + 2 digits and a window below divisor times b (D1, D3): what one digit position is given. -/
structure DigitWindow (k vn win : Nat) : Prop where
  normalised : 2 ^ 31 * digitBase ^ (k + 1) ≤ vn
  divisor_lt : vn < digitBase ^ (k + 2)
  below : win < vn * digitBase

namespace DigitWindow

variable {k vn win : Nat} (h : DigitWindow k vn win)
include h

theorem divisor_pos : 0 < vn :=
  (Nat.mul_pos (Nat.two_pow_pos 31) (Nat.pow_pos digitBase_pos)).trans_le h.normalised

theorem true_digit_lt : win / vn < digitBase := Nat.div_lt_of_lt_mul h.below

theorem normalised_top : 2 ^ 31 ≤ digit vn (k + 1) := by
  rw [digit_top h.divisor_lt, Nat.le_div_iff_mul_le (Nat.pow_pos digitBase_pos)]
  exact h.normalised

/-- The two leading digits of the divisor. -/
theorem divisor_div_pow : vn / digitBase ^ k = digit vn (k + 1) * digitBase + digit vn k := by
  rw [div_digitBase_pow, digit_top h.divisor_lt]

/-- The two leading digits of the window. -/
theorem window_num : digit win (k + 2) * digitBase + digit win (k + 1) = win / digitBase ^ (k + 1) := by
  rw [div_digitBase_pow win (k + 1), digit_top]
  rw [pow_succ digitBase]
  exact h.below.trans_le (Nat.mul_le_mul_right _ h.divisor_lt.le)

theorem estimate_eq : estimate (k + 2) vn win =
    (min (win / digitBase ^ (k + 1) / digit vn (k + 1)) (digitBase - 1),
      win / digitBase ^ (k + 1) -
        min (win / digitBase ^ (k + 1) / digit vn (k + 1)) (digitBase - 1) * digit vn (k + 1)) := by
  rw [← h.window_num]
  rfl

theorem estimate_num :
    (estimate (k + 2) vn win).1 * digit vn (k + 1) + (estimate (k + 2) vn win).2 = win / digitBase ^ (k + 1) := by
  rw [h.estimate_eq]
  exact Nat.add_sub_cancel' ((Nat.mul_le_mul_right _ (min_le_left _ _)).trans (Nat.div_mul_le_self _ _))

theorem estimate_lt : (estimate (k + 2) vn win).1 < digitBase := by
  rw [h.estimate_eq]
  exact (min_le_right _ _).trans_lt (Nat.sub_lt digitBase_pos one_pos)

theorem true_digit_le_estimate : win / vn ≤ (estimate (k + 2) vn win).1 := by
  have top := h.normalised_top
  rw [h.estimate_eq, le_min_iff, Nat.le_div_iff_mul_le (by omega), digit_top h.divisor_lt]
  exact ⟨div_mul_div_pow_le vn win (k + 1), Nat.le_sub_one_of_lt h.true_digit_lt⟩

theorem correctedEstimate_fuel {fuel : Nat} (enough : 2 ≤ fuel) :
    correctedEstimate fuel (k + 2) vn win = correctedEstimate 2 (k + 2) vn win := by
  obtain ⟨more, rfl⟩ := Nat.exists_eq_add_of_le' enough
  rw [correctedEstimate_eq, correctedEstimate_eq]
  exact correct_stops h.normalised_top _ _ _ _ more

theorem true_digit_le_correctedEstimate (fuel : Nat) : win / vn ≤ (correctedEstimate fuel (k + 2) vn win).1 := by
  have le := div_mul_div_pow_le vn win k
  rw [h.divisor_div_pow, div_digitBase_pow win k] at le
  rw [correctedEstimate_eq]
  exact le_correct_fst le fuel _ _ h.estimate_num h.true_digit_le_estimate

theorem correctedEstimate_lt (fuel : Nat) : (correctedEstimate fuel (k + 2) vn win).1 < digitBase := by
  rw [correctedEstimate_eq]
  exact (correct_fst_le ..).trans_lt h.estimate_lt

/-- The corrected estimate is not too big for the two leading digits of the divisor. -/
theorem correctedEstimate_mul_le :
    (correctedEstimate 2 (k + 2) vn win).1 * (vn / digitBase ^ k) ≤ win / digitBase ^ k := by
  have enough : digitBase ≤ (estimate (k + 2) vn win).2 + 2 * digit vn (k + 1) := by
    have top := h.normalised_top
    rw [digitBase]
    omega
  rw [h.divisor_div_pow, div_digitBase_pow win k, correctedEstimate_eq]
  exact correct_fst_mul_le (digit_lt ..) 2 _ _ h.estimate_num h.estimate_lt enough

/-- The corrected estimate exceeds the true digit by at most 1: the digits that its test leaves out make up less than one
unit of the cut divisor, and the cut divisor is at least b, so one estimate less makes up for them. -/
theorem correctedEstimate_le : (correctedEstimate 2 (k + 2) vn win).1 ≤ win / vn + 1 := by
  have within := h.correctedEstimate_mul_le
  have lt := h.correctedEstimate_lt 2
  generalize (correctedEstimate 2 (k + 2) vn win).1 = qhat at *
  have pow_pos : 0 < digitBase ^ k := Nat.pow_pos digitBase_pos
  have cut : digitBase ≤ vn / digitBase ^ k := by
    rw [h.divisor_div_pow]
    have top := h.normalised_top
    exact Nat.le_add_right_of_le (Nat.le_mul_of_pos_left _ (by omega))
  have cut_lt : vn ≤ (vn / digitBase ^ k + 1) * digitBase ^ k :=
    (Nat.lt_mul_of_div_lt (Nat.lt_succ_self _) pow_pos).le
  rw [← Nat.sub_le_iff_le_add, Nat.le_div_iff_mul_le h.divisor_pos]
  calc (qhat - 1) * vn
    _ ≤ (qhat - 1) * (vn / digitBase ^ k + 1) * digitBase ^ k := by
      rw [Nat.mul_assoc]
      exact Nat.mul_le_mul_left _ cut_lt
    _ ≤ qhat * (vn / digitBase ^ k) * digitBase ^ k := by
      refine Nat.mul_le_mul_right _ ?_
      obtain _ | q := qhat
      · simp
      · rw [Nat.add_sub_cancel, Nat.mul_add, Nat.add_mul]
        omega
    _ ≤ win := (Nat.mul_le_mul_right _ within).trans (Nat.div_mul_le_self _ _)

/-- The corrected estimate is the true digit or one more. -/
theorem correctedEstimate_cases : (correctedEstimate 2 (k + 2) vn win).1 = win / vn ∨
    (correctedEstimate 2 (k + 2) vn win).1 = win / vn + 1 := by
  have lower := h.true_digit_le_correctedEstimate 2
  have upper := h.correctedEstimate_le
  omega

/-- The product of the corrected estimate and the divisor is too big exactly when the estimate is one too large. -/
theorem lt_product_iff : win < (correctedEstimate 2 (k + 2) vn win).1 * vn ↔
    (correctedEstimate 2 (k + 2) vn win).1 = win / vn + 1 := by
  have upper := h.correctedEstimate_le
  rw [← Nat.div_lt_iff_lt_mul h.divisor_pos]
  omega

theorem addBack_iff : (digitStep (k + 2) vn win).addBack = true ↔
    (correctedEstimate 2 (k + 2) vn win).1 = win / vn + 1 := by
  rw [← h.lt_product_iff]
  rcases estimated : correctedEstimate 2 (k + 2) vn win with ⟨qhat, corrections⟩
  rw [digitStep_eq estimated]
  exact decide_eq_true_iff

/-- One position gives the exact digit and leaves the exact remainder. -/
theorem digitStep_exact : (digitStep (k + 2) vn win).q = win / vn ∧ (digitStep (k + 2) vn win).t = win % vn := by
  have divMod := Nat.div_add_mod' win vn
  have tooBig := h.lt_product_iff
  have cases := h.correctedEstimate_cases
  rcases estimated : correctedEstimate 2 (k + 2) vn win with ⟨qhat, corrections⟩
  rw [estimated] at tooBig cases
  rw [digitStep_eq estimated]
  dsimp only at tooBig cases ⊢
  obtain rfl | rfl := cases
  · have fits : ¬win < win / vn * vn := mt tooBig.1 (by omega)
    rw [if_neg fits, if_neg fits]
    exact ⟨rfl, by omega⟩
  · rw [if_pos (tooBig.2 rfl), if_pos (tooBig.2 rfl), Nat.add_mul]
    exact ⟨rfl, by omega⟩

end DigitWindow

/-- Settles O58: the estimate starts at or above the true digit, a correction never takes it below, and after two turns it
is within the two leading digits of the divisor, so that it is at most one too large. -/
theorem knuthDigitIsExact : Obligations.KnuthDigitIsExact := by
  intro n vn win two_le normalised divisor_lt below
  obtain ⟨k, rfl⟩ := Nat.exists_eq_add_of_le' two_le
  have h : DigitWindow k vn win := ⟨normalised, divisor_lt, below⟩
  exact ⟨h.true_digit_le_estimate, fun _ => h.correctedEstimate_fuel, digitStep_corrections ..,
    digitStep_corrections (k + 2) vn win ▸ correctedEstimate_snd_le ..,
    h.true_digit_le_correctedEstimate 2, h.correctedEstimate_le, h.addBack_iff, h.digitStep_exact⟩

/-! ## The whole division -/

/-- The digit loop divides what is still to be divided, below the quotient q it has so far. -/
theorem digitLoop_eq {k vn : Nat} (normalised : 2 ^ 31 * digitBase ^ (k + 1) ≤ vn)
    (divisor_lt : vn < digitBase ^ (k + 2)) (un : Nat) : ∀ j q t log, t < vn → ∃ log', digitLoop (k + 2) vn un j q t log =
      (q * digitBase ^ j + undivided un j t / vn, undivided un j t % vn, log') := by
  intro j
  induction j with
  | zero =>
    intro q t log ht
    exact ⟨log, by simp [digitLoop, undivided_zero, Nat.div_eq_of_lt ht, Nat.mod_eq_of_lt ht]⟩
  | succ j ih =>
    intro q t log ht
    have window : DigitWindow k vn (t * digitBase + digit un j) := by
      refine ⟨normalised, divisor_lt, ?_⟩
      have := digit_lt un j
      have := Nat.mul_le_mul_right digitBase (Nat.succ_le_of_lt ht)
      rw [Nat.succ_mul] at this
      omega
    obtain ⟨digit_eq, rest_eq⟩ := window.digitStep_exact
    rw [digitLoop, digit_eq, rest_eq, undivided_succ, undivided_div window.divisor_pos un j (_ + _),
      undivided_mod un j (_ + _) vn, ← quotient_append_digit]
    exact ih _ _ _ (Nat.mod_lt _ window.divisor_pos)

/-- D1: the shift that sets the high bit of the divisor's leading digit normalises the divisor. -/
theorem normalise {k v : Nat} (lower : digitBase ^ (k + 1) ≤ v) (upper : v < digitBase ^ (k + 2)) :
    2 ^ 31 * digitBase ^ (k + 1) ≤ v * 2 ^ (31 - Nat.log2 (digit v (k + 1))) ∧
      v * 2 ^ (31 - Nat.log2 (digit v (k + 1))) < digitBase ^ (k + 2) := by
  have top_eq := digit_top upper
  have top_lt := digit_lt v (k + 1)
  have pow_pos : 0 < digitBase ^ (k + 1) := Nat.pow_pos digitBase_pos
  have top_ne : digit v (k + 1) ≠ 0 := by
    rw [top_eq]
    exact (Nat.div_pos lower pow_pos).ne'
  have le_v : digit v (k + 1) * digitBase ^ (k + 1) ≤ v := by rw [top_eq]; exact Nat.div_mul_le_self _ _
  have v_lt : v < (digit v (k + 1) + 1) * digitBase ^ (k + 1) := by
    rw [top_eq]; exact Nat.lt_mul_of_div_lt (Nat.lt_succ_self _) pow_pos
  generalize digit v (k + 1) = top at *
  have log_le : top.log2 ≤ 31 := Nat.le_of_lt_succ ((Nat.log2_lt top_ne).2 top_lt)
  constructor
  · calc 2 ^ 31 * digitBase ^ (k + 1)
      _ = 2 ^ top.log2 * digitBase ^ (k + 1) * 2 ^ (31 - top.log2) := by
        rw [Nat.mul_right_comm, ← pow_add, Nat.add_sub_cancel' log_le]
      _ ≤ v * 2 ^ (31 - top.log2) :=
        Nat.mul_le_mul_right _ ((Nat.mul_le_mul_right _ (Nat.log2_self_le top_ne)).trans le_v)
  · calc v * 2 ^ (31 - top.log2)
      _ < 2 ^ (top.log2 + 1) * digitBase ^ (k + 1) * 2 ^ (31 - top.log2) := by
        refine Nat.mul_lt_mul_of_pos_right (v_lt.trans_le (Nat.mul_le_mul_right _ ?_)) (by positivity)
        exact Nat.lt_log2_self
      _ = digitBase ^ (k + 2) := by
        rw [Nat.mul_right_comm, ← pow_add, show top.log2 + 1 + (31 - top.log2) = 32 by omega,
          pow_succ' digitBase (k + 1)]
        rfl

/-- The multi-word path in the terms of its digit loop. -/
theorem divWords_eq_digitLoop {N u v n m s q t : Nat} {log : List DigitStep} (two_le : 2 ≤ n) (hv : digitCount v = n)
    (hu : digitCount u = n + m) (hs : 31 - Nat.log2 (digit v (n - 1)) = s)
    (loop : digitLoop n (v * 2 ^ s) (u * 2 ^ s) (m + 1) 0 (u * 2 ^ s / digitBase ^ (m + 1)) [] = (q, t, log)) :
    divWords N u v = (q, t / 2 ^ s) := by
  rw [divWords, divWordsLog, hv, hu, if_neg (by omega), if_neg (by omega), Nat.add_sub_cancel_left, hs]
  simp only [loop]

/-- The single-word path: the divisor is its digit 0. -/
theorem divWords_short {N u v : Nat} (nonzero : v ≠ 0) (hu : u < digitBase ^ N) (single : digitCount v ≤ 1) :
    divWords N u v = (u / v, u % v) := by
  have digit_zero : digit v 0 = v := by
    rw [digit_top, pow_zero, Nat.div_one]
    exact (lt_pow_digitCount v).trans_le (Nat.pow_le_pow_right digitBase_pos single)
  have all : undivided u N 0 = u := by rw [undivided, Nat.mod_eq_of_lt hu, Nat.zero_mul, Nat.zero_add]
  rw [divWords, divWordsLog, if_pos single, digit_zero]
  have h := shortDivide_eq (Nat.pos_of_ne_zero nonzero) u N 0 0 (Nat.pos_of_ne_zero nonzero)
  rw [all, Nat.zero_mul, Nat.zero_add] at h
  simp only [h]

/-- The shortcut of R216: a dividend of fewer digits is smaller. -/
theorem divWords_less {N u v : Nat} (nonzero : v ≠ 0) (multi : ¬digitCount v ≤ 1) (less : digitCount u < digitCount v) :
    divWords N u v = (u / v, u % v) := by
  have lt : u < v := calc
    u < digitBase ^ digitCount u := lt_pow_digitCount u
    _ ≤ digitBase ^ (digitCount v - 1) := Nat.pow_le_pow_right digitBase_pos (by omega)
    _ ≤ v := pow_digitCount_le nonzero
  rw [divWords, divWordsLog, if_neg multi, if_pos less, Nat.div_eq_of_lt lt, Nat.mod_eq_of_lt lt]

/-- The multi-word path: the shift changes neither the quotient nor, once undone (D8), the remainder. -/
theorem divWords_long {N u v : Nat} (nonzero : v ≠ 0) (multi : ¬digitCount v ≤ 1)
    (notLess : ¬digitCount u < digitCount v) : divWords N u v = (u / v, u % v) := by
  have lower := pow_digitCount_le nonzero
  have upper := lt_pow_digitCount v
  have hu := lt_pow_digitCount u
  obtain ⟨k, hk⟩ := Nat.exists_eq_add_of_le' (by omega : 2 ≤ digitCount v)
  obtain ⟨m, hm⟩ := Nat.exists_eq_add_of_le (not_lt.1 notLess)
  rw [hk] at lower upper hm
  rw [hm] at hu
  obtain ⟨normalised, divisor_lt⟩ := normalise lower upper
  generalize hs : 31 - Nat.log2 (digit v (k + 1)) = s at normalised divisor_lt
  have shift_pos : 0 < 2 ^ s := Nat.two_pow_pos s
  have top_lt : u * 2 ^ s / digitBase ^ (m + 1) < v * 2 ^ s := by
    apply Nat.div_lt_of_lt_mul
    calc u * 2 ^ s
      _ < digitBase ^ (k + 2 + m) * 2 ^ s := Nat.mul_lt_mul_of_pos_right hu shift_pos
      _ = digitBase ^ (m + 1) * (digitBase ^ (k + 1) * 2 ^ s) := by rw [← Nat.mul_assoc, ← pow_add]; congr 2; omega
      _ ≤ digitBase ^ (m + 1) * (v * 2 ^ s) := Nat.mul_le_mul_left _ (Nat.mul_le_mul_right _ lower)
  obtain ⟨log, loop⟩ := digitLoop_eq normalised divisor_lt (u * 2 ^ s) (m + 1) 0 _ [] top_lt
  rw [divWords_eq_digitLoop (Nat.le_add_left 2 k) hk hm hs loop, undivided_quotient, Nat.zero_mul, Nat.zero_add,
    Nat.mul_div_mul_right _ _ shift_pos, Nat.mul_mod_mul_right, Nat.mul_div_cancel _ shift_pos]

/-- Settles O59: each of the three paths of the algorithm is exact. -/
theorem knuthAlgorithmDDividesExactly : Obligations.KnuthAlgorithmDDividesExactly := by
  intro N u v nonzero hu _
  by_cases single : digitCount v ≤ 1
  · exact divWords_short nonzero hu single
  · by_cases less : digitCount u < digitCount v
    · exact divWords_less nonzero single less
    · exact divWords_long nonzero single less

end Sys2Proof.Machine
end

section
/-! One host statement (44_host_access.md R193): what each kind answers, the statement a label stands on, and the host's
variables. -/

namespace Sys2Proof.Machine

open Sys2Proof.Claims

/-! ## Variables and labels -/

/-- A variable reads as last written, whatever the form of the list. -/
theorem getVar_setVar (l : List (HostVar × Word)) (x y : HostVar) (w : Word) :
    getVar (setVar l x w) y = if y = x then some w else getVar l y := by
  induction l with
  | nil => rfl
  | cons q l ih =>
    obtain ⟨z, v⟩ := q
    by_cases before : x < z
    · simp only [setVar, if_pos before, getVar]
    · by_cases same : x = z
      · subst same
        by_cases hy : y = x <;> simp [setVar, getVar, hy]
      · simp only [setVar, if_neg before, if_neg same, getVar, ih]
        by_cases hy : y = x
        · simp [hy, same]
        · simp [hy]

/-- A label that stands on one statement alone is found there. -/
theorem labelIndex_of_nodup {p : HostProgram} {k : Nat} {line : HostLine} {l : HostLabel} (hline : p[k]? = some line)
    (hlabel : line.label = some l) (distinct : (HostProgram.labels p).Nodup) : labelIndex p l = some k := by
  induction p generalizing k with
  | nil => simp at hline
  | cons q p ih =>
    cases k with
    | zero =>
      obtain rfl : q = line := by simpa using hline
      simp [labelIndex, List.findIdx?_cons, hlabel]
    | succ k =>
      rw [List.getElem?_cons_succ] at hline
      have later : l ∈ HostProgram.labels p := List.mem_filterMap.2 ⟨line, List.mem_of_getElem? hline, hlabel⟩
      have notHere : q.label ≠ some l := by
        intro here
        rw [HostProgram.labels, List.filterMap_cons_some here] at distinct
        exact (List.nodup_cons.1 distinct).1 later
      have rest := ih hline (distinct.sublist ((List.sublist_cons_self q p).filterMap _))
      simp only [labelIndex] at rest
      simp [labelIndex, List.findIdx?_cons, notHere, rest]

/-! ## What a statement answers -/

theorem writeReg_hpc (s : State) (w : Word) (r : Reg) : (writeReg s w r).hpc = s.hpc := by
  rcases writeReg_cases s w r with ⟨v, h⟩ | ⟨v, h⟩ | ⟨-, -, h⟩ | ⟨-, -, h⟩ | h <;> rw [h]
  · exact acceptCommand_hpc w s
  · exact dropCommand_hpc s

section
variable {s t : State} {off : Offset} {n : Nat} {x : HostVar} {e : HostExpr} {w : Word} (l : HostLabel)

theorem execStmt_store (he : evalExpr s.vars e = some w) (hw : windowWrite off n w s = .next t) :
    execStmt (.store off n e) s = .next t.advance := by simp only [execStmt, he, hw]

theorem execStmt_load (hw : windowRead off n s = .ok w) :
    execStmt (.load off n x) s = .next { s with vars := setVar s.vars x w, hpc := s.hpc + 1 } := by
  simp only [execStmt, hw]

theorem execStmt_assign (he : evalExpr s.vars e = some w) :
    execStmt (.assign x e) s = .next { s with vars := setVar s.vars x w, hpc := s.hpc + 1 } := by
  simp only [execStmt, he]

theorem execStmt_bz (hx : getVar s.vars x = some w) : execStmt (.bz x l) s = branch (w == 0) l s := by
  simp only [execStmt, hx]

theorem execStmt_bnz (hx : getVar s.vars x = some w) : execStmt (.bnz x l) s = branch (w != 0) l s := by
  simp only [execStmt, hx]

/-- A store or an assignment whose expression has no value is a fault of the host program, refused access or not. -/
theorem execStmt_unreadable (he : evalExpr s.vars e = none) (off : Offset) (n : Nat) (y : HostVar) :
    execStmt (.store off n e) s = .fault .unwrittenHostVariable ∧
      execStmt (.assign y e) s = .fault .unwrittenHostVariable := by simp only [execStmt, he, and_self]

/-- A branch on a variable no statement has written is a fault of the host program. -/
theorem execStmt_branch_unwritten (hx : getVar s.vars x = none) :
    execStmt (.bz x l) s = .fault .unwrittenHostVariable ∧
      execStmt (.bnz x l) s = .fault .unwrittenHostVariable := by simp only [execStmt, hx, and_self]

/-- A branch to a label that stands on statement k. -/
theorem branch_of_labelIndex {k : Nat} (hl : labelIndex s.prog l = some k) (taken : Bool) :
    branch taken l s = .next { s with hpc := if taken then k else s.hpc + 1 } := by
  cases taken with
  | false => rfl
  | true => simp only [branch, hl, if_true]

end

/-- Settles O26: the block answers the access, no register write moves `hpc`, and each statement then advances it. -/
theorem hostStatementsAdvanceByOne : Obligations.HostStatementsAdvanceByOne := by
  intro s off x e v hs aligned he
  refine ⟨?_, execStmt_load (windowRead_eq hs aligned rfl), execStmt_assign he⟩
  rw [HostStmt.wr, execStmt_store he (windowWrite_eq v hs aligned rfl), State.advance, writeReg_hpc]

/-- Settles O27: the label is found on its statement, and the branch is taken as the variable says. -/
theorem hostBranchesFollowTheirVariable : Obligations.HostBranchesFollowTheirVariable := by
  intro s x w l k line hx hline hlabel distinct
  have target := labelIndex_of_nodup hline hlabel distinct
  rw [execStmt_bz l hx, execStmt_bnz l hx, branch_of_labelIndex l target, branch_of_labelIndex l target]
  by_cases zero : w = 0 <;> simp [zero]

/-- Settles O28: the written list reads back and keeps its form; an expression that reads an unwritten variable has no
value. -/
theorem hostVariablesReadBack : Obligations.HostVariablesReadBack :=
  ⟨fun l x y w sorted => ⟨getVar_setVar l x y w, setVar_sorted x w sorted⟩,
    fun _ _ unwritten => ⟨fun _ off n y reads => execStmt_unreadable (evalExpr_eq_none_of_reads unwritten reads) off n y,
      fun l => execStmt_branch_unwritten l unwritten⟩⟩

end Sys2Proof.Machine
end

section
/-! The host's duties (44_host_access.md R196): with the clock alone beside it, what the host has read of STATUS since its
last CMD write stays true, so a host that keeps its duties and accepts no drop has no command dropped. -/

namespace Sys2Proof.Machine

open Sys2Proof.Claims

/-! ## The moves of the host and of the clock -/

/-- A step whose move is a clock cycle or the host's: a host that has ended does what an idle block does in a cycle,
nothing. -/
theorem step_host_or_clock {s t : State}
    (alone : s.inputs = [] ∨ s.inputs.head? = some .tick ∨ s.inputs.head? = some .host) (h : step s = .next t) :
    let s' : State := { s with inputs := s.inputs.tail }
    (hostMove? s = none ∧ ClockEffect s' t) ∨ ∃ c, hostMove? s = some c ∧ execStmt c s' = .next t := by
  intro s'
  rcases hs : s.inputs with - | ⟨x, rest⟩
  · have same : s' = s := by simp only [s', hs, List.tail_nil]; rw [← hs]
    exact .inl ⟨by simp [hostMove?, hs], same ▸ clockTick_effect ((step_unlisted hs).symm.trans h)⟩
  · obtain ⟨host, -, -, tick, -⟩ := stepCarriesOutTheListedMove s rest
    have taken : s' = { s with inputs := rest } := by simp only [s', hs, List.tail_cons]
    rw [taken]
    cases x with
    | tick => exact .inl ⟨by simp [hostMove?, hs], clockTick_effect ((tick hs).symm.trans h)⟩
    | host =>
      obtain ⟨carriesOut, ended⟩ := host hs
      cases hline : s.prog[s.hpc]? with
      | some line => exact .inr ⟨line.stmt, by simp [hostMove?, hs, hline], (carriesOut line hline).symm.trans h⟩
      | none =>
        cases (ended (List.getElem?_eq_none_iff.1 hline)).symm.trans h
        exact .inl ⟨by simp [hostMove?, hs, hline], .idle rfl⟩
    | bus a => simp [hs] at alone
    | resetLine b => simp [hs] at alone

/-- Only a CMD write changes STATUS (10_state.md R37, R38) among the host's statements. -/
theorem execStmt_status {c : HostStmt} {s t : State} (released : s.resetLine = false) (h : execStmt c s = .next t) :
    t.status = s.status ∨
      ∃ off n e w, c = .store off n e ∧ regAt off = .cmd ∧ t.status = (writeCmd w s).status := by
  cases c with
  | store off n e =>
    simp only [execStmt] at h
    split at h
    case h_1 => cases h
    case h_2 w he =>
      split at h
      case h_1 u hw =>
        obtain ⟨-, -, -, rfl⟩ := windowWrite_next hw
        cases h
        rw [released, if_neg Bool.false_ne_true, advance_status]
        cases hr : regAt off with
        | cmd => exact .inr ⟨off, n, e, w, rfl, hr, rfl⟩
        | opa i | opb i | status | res i | rem i | reserved => exact .inl rfl
      all_goals cases h
  | load off n x =>
    simp only [execStmt] at h
    split at h <;> cases h
    exact .inl rfl
  | assign x e =>
    simp only [execStmt] at h
    split at h <;> cases h
    exact .inl rfl
  | bz x l | bnz x l =>
    simp only [execStmt] at h
    split at h
    · cases h
    · obtain ⟨k, rfl⟩ := branch_next h
      exact .inl rfl

/-! ## What the host knows -/

/-- A view speaks of STATUS alone. -/
theorem holds_of_status_eq {v : HostView} {s t : State} (hv : v.Holds s) (h : t.status = s.status) : v.Holds t := by
  unfold HostView.Holds
  rw [h]
  exact hv

/-- What a read of a block not held in reset returns. -/
theorem windowRead_ok {s : State} {off : Offset} {n : Nat} {w : Word} (released : s.resetLine = false)
    (h : windowRead off n s = .ok w) : w = readReg s (regAt off) := by
  unfold windowRead at h
  split at h <;> cases h
  rw [released, if_neg Bool.false_ne_true]

/-- A statement adds to the view what is true of the block it reads. -/
theorem after_holds {v : HostView} {s : State} (c : HostStmt) (released : s.resetLine = false) (hv : v.Holds s) :
    (v.after c s).Holds s := by
  obtain ⟨idle, done⟩ := hv
  cases c with
  | store off n e =>
    simp only [HostView.after]
    split
    · exact ⟨nofun, nofun⟩
    · exact ⟨idle, done⟩
  | load off n x =>
    simp only [HostView.after]
    split
    · rename_i w hr hw
      obtain rfl : w = s.status.word := by rw [windowRead_ok released hw, hr, readReg]
      simp only [HostView.Holds, status_word_bit0, status_word_bit1, Bool.or_eq_true, Bool.not_eq_true']
      exact ⟨fun h => h.elim idle id, fun h => h.elim done id⟩
    · exact ⟨idle, done⟩
  | assign x e => exact ⟨idle, done⟩
  | bz x l | bnz x l => exact ⟨idle, done⟩

/-- What a statement adds to the view does not depend on the moves to come. -/
theorem after_inputs (v : HostView) (c : HostStmt) (s : State) (l : List Input) :
    v.after c { s with inputs := l } = v.after c s := by
  cases c with
  | load off n x => simp only [HostView.after, windowRead_inputs]
  | store off n e | assign x e | bz x l' | bnz x l' => rfl

/-- A CMD write forgets the view; no other statement changes STATUS. -/
theorem execStmt_after_holds {v : HostView} {c : HostStmt} {s t : State} (released : s.resetLine = false)
    (hv : v.Holds s) (h : execStmt c s = .next t) : (v.after c s).Holds t := by
  rcases execStmt_status released h with same | ⟨off, n, e, w, rfl, hr, -⟩
  · exact holds_of_status_eq (after_holds c released hv) same
  · rw [HostView.after, if_pos hr]
    exact ⟨nofun, nofun⟩

/-- A clock cycle ends BUSY and never ends DONE. -/
theorem ClockEffect.keeps_view {v : HostView} {s t : State} (h : ClockEffect s t) (released : s.resetLine = false)
    (hv : v.Holds s) : v.Holds t := by
  cases h with
  | reset asserted _ => rw [released] at asserted; cases asserted
  | completed _ _ r q e _ eq => subst eq; exact ⟨fun _ => rfl, fun _ => rfl⟩
  | counted _ _ eq => subst eq; exact hv
  | idle eq => subst eq; exact hv

/-- Duty 1 of a host that accepts no drop: CMD is written on an idle block alone, which accepts the command. -/
theorem execStmt_keeps_drop {v : HostView} {c : HostStmt} {s t : State} (released : s.resetLine = false)
    (hv : v.Holds s) (duties : keepsDuties false v c = true) (h : execStmt c s = .next t)
    (dropped : t.status.drop = true) : s.status.drop = true := by
  rcases execStmt_status released h with same | ⟨off, n, e, w, rfl, hr, written⟩
  · exact same ▸ dropped
  · have readIdle : v.readIdle = true := by simpa [keepsDuties, hr] using (Bool.and_eq_true_iff.1 duties).2
    rw [written, writeCmd_idle w (hv.1 readIdle)] at dropped
    cases dropped

section
variable {v : HostView} {s t : State} (released : s.resetLine = false)
  (alone : s.inputs = [] ∨ s.inputs.head? = some .tick ∨ s.inputs.head? = some .host)
include released alone

theorem step_keeps_view (hv : v.Holds s) (h : step s = .next t) : (v.next s).Holds t := by
  rcases step_host_or_clock alone h with ⟨ofClock, clock⟩ | ⟨c, ofHost, stmt⟩
  · simp only [HostView.next, ofClock]
    exact clock.keeps_view released hv
  · simp only [HostView.next, ofHost]
    rw [← after_inputs v c s s.inputs.tail]
    exact execStmt_after_holds released hv stmt

theorem step_keeps_drop (hv : v.Holds s) (h : step s = .next t) (duties : moveKeepsDuties false v s = true)
    (dropped : t.status.drop = true) : s.status.drop = true := by
  rcases step_host_or_clock alone h with ⟨-, clock⟩ | ⟨c, ofHost, stmt⟩
  · rcases clock.keeps_drop with same | asserted
    · exact same ▸ dropped
    · exact absurd (released.symm.trans asserted) Bool.false_ne_true
  · simp only [moveKeepsDuties, ofHost] at duties
    exact execStmt_keeps_drop (s := { s with inputs := s.inputs.tail }) released hv duties stmt dropped

end

/-- Duty 2: a result is read only after DONE = 1 has been read. -/
theorem readDone_of_reads_result {v : HostView} {s : State} {off : Offset} {n : Nat} {x : HostVar}
    (move : hostMove? s = some (.load off n x)) (duties : moveKeepsDuties false v s = true)
    (result : Reg.isResult (regAt off) = true) : v.readDone = true := by
  simp only [moveKeepsDuties, move, keepsDuties, result, Bool.and_eq_true] at duties
  exact duties.2

theorem launch_holds {s : State} (h : launch s = true) : HostView.launch.Holds s := by
  simp only [launch, Bool.and_eq_true, Bool.not_eq_true'] at h
  obtain ⟨⟨⟨-, idle⟩, -⟩, -⟩ := h
  exact ⟨fun _ => idle, nofun⟩

/-- Settles O30: the view is true at launch and after each step, so a CMD write that keeps duty 1 finds an idle block and a
read that keeps duty 2 finds DONE = 1. -/
theorem dutifulHostKnowsTheBlock : Obligations.DutifulHostKnowsTheBlock :=
  ⟨fun _ => launch_holds, fun _ _ _ released alone hv h =>
    ⟨step_keeps_view released alone hv h, step_keeps_drop released alone hv h,
      fun _ _ _ move duties result => hv.2 (readDone_of_reads_result move duties result)⟩⟩

/-! ## Runs -/

/-- The reset input is released, and no listed move is another master's or the reset input's. -/
structure HostAndClockAlone (s : State) : Prop where
  released : s.resetLine = false
  moves : ∀ x ∈ s.inputs, x = .tick ∨ x = .host

theorem HostAndClockAlone.next_move {s : State} (h : HostAndClockAlone s) :
    s.inputs = [] ∨ s.inputs.head? = some .tick ∨ s.inputs.head? = some .host := by
  cases hs : s.inputs with
  | nil => exact .inl rfl
  | cons x rest => simpa using h.moves x (hs ▸ List.mem_cons_self)

theorem ClockEffect.keeps_schedule {s t : State} (h : ClockEffect s t) :
    t.resetLine = s.resetLine ∧ t.inputs = s.inputs := by
  cases h with
  | reset _ eq => subst eq; exact ⟨rfl, rfl⟩
  | completed _ _ _ _ _ _ eq => subst eq; exact ⟨rfl, rfl⟩
  | counted _ _ eq => subst eq; exact ⟨rfl, rfl⟩
  | idle eq => subst eq; exact ⟨rfl, rfl⟩

theorem AgentMove.keeps_schedule {s t : State} (h : AgentMove s t) :
    t.resetLine = s.resetLine ∧ t.inputs = s.inputs := by
  refine ⟨?_, h.inputs⟩
  cases h.effect with
  | unchanged same => exact same.resetLine
  | accepted w _ same => exact same.resetLine
  | dropped _ same => exact same.resetLine

theorem HostAndClockAlone.step {s t : State} (h : HostAndClockAlone s) (hstep : Machine.step s = .next t) :
    HostAndClockAlone t := by
  have kept : t.resetLine = s.resetLine ∧ t.inputs = s.inputs.tail := by
    rcases step_host_or_clock h.next_move hstep with ⟨-, clock⟩ | ⟨c, -, stmt⟩
    · exact clock.keeps_schedule
    · exact (execStmt_agentMove stmt).keeps_schedule
  obtain ⟨line, moves⟩ := kept
  exact ⟨line.trans h.released, fun x hx => h.moves x (List.mem_of_mem_tail (moves ▸ hx))⟩

/-- A dutiful run keeps the duties at its first step and goes on dutifully. -/
theorem dutifulRun_succ {accepts : Nat → Bool} {k : Nat} {v : HostView} {s t : State}
    (h : dutifulRun accepts (k + 1) v s = true) (hstep : step s = .next t) :
    moveKeepsDuties (accepts s.hpc) v s = true ∧ dutifulRun accepts k (v.next s) t = true := by
  simpa only [dutifulRun, hstep, Bool.and_eq_true] using h

/-- From any view that is true of the block. -/
theorem run_drops_no_command {k : Nat} {v : HostView} {s t : State} (alone : HostAndClockAlone s) (hv : v.Holds s)
    (clear : s.status.drop = false) (duties : dutifulRun (fun _ => false) k v s = true)
    (h : Host.Core.run core k s = .next t) : t.status.drop = false := by
  induction k generalizing v s with
  | zero => cases h; exact clear
  | succ k ih =>
    obtain ⟨u, hstep, hrun⟩ := run_succ_next h
    obtain ⟨now, later⟩ := dutifulRun_succ duties hstep
    have stillClear : u.status.drop = false := by
      rw [← Bool.not_eq_true] at clear ⊢
      exact mt (step_keeps_drop alone.released alone.next_move hv hstep now) clear
    exact ih (alone.step hstep) (step_keeps_view alone.released alone.next_move hv hstep) stillClear later hrun

/-- Settles O31: the view at launch is true, and by induction on the steps no CMD write meets a busy block. -/
theorem dutifulRunDropsNoCommand : Obligations.DutifulRunDropsNoCommand :=
  fun _ _ _ hlaunch released clear moves duties h =>
    run_drops_no_command ⟨released, moves⟩ (launch_holds hlaunch) clear duties h

end Sys2Proof.Machine
end

section
/-! Reset (70_reset_and_hazards.md R250 to R253): what it leaves in the registers of the window, and the window while it is
asserted. -/

namespace Sys2Proof.Machine

open Sys2Proof.Claims

/-! ## The block after reset -/

/-- Another reset changes nothing of the state after reset. -/
theorem resetBlock_reset : resetBlock State.reset = State.reset := rfl

theorem wordAt_zero (i : BitVec 3) : wordAt 0 i = 0 := BitVec.extractLsb'_zero

theorem status_reset_word : Status.reset.word = 0 := by decide

/-- Every register of a block just reset reads 0 (R252). -/
@[simp] theorem readReg_resetBlock (s : State) (r : Reg) : readReg (resetBlock s) r = 0 := by
  cases r with
  | opa i | opb i | res i | rem i => exact wordAt_zero i
  | status => exact status_reset_word
  | cmd | reserved => rfl

/-- Settles O12: the block is as after a reset event, and no host variable has been written. -/
theorem invariantHoldsAfterReset : Obligations.InvariantHoldsAfterReset := by
  unfold Obligations.InvariantHoldsAfterReset
  rw [← resetBlock_reset]
  exact resetBlock_inv rfl

/-- Settles O25: the registers are 0 by definition, and an access after reset reads the register at its offset. -/
theorem resetValuesAreZero : Obligations.ResetValuesAreZero := by
  refine ⟨⟨rfl, rfl, rfl, rfl, rfl, rfl, rfl, rfl, rfl⟩, fun off aligned => ?_⟩
  rw [windowRead_of_accessible rfl rfl aligned, ← resetBlock_reset, readReg_resetBlock]

/-! ## While reset is asserted -/

/-- Reset wins over a completion due in the same cycle (60_exceptions.md R237). -/
theorem clockTick_asserted {s : State} (asserted : s.resetLine = true) : clockTick s = .next (resetBlock s) :=
  if_pos asserted

theorem windowWrite_asserted {s : State} {off : Offset} (w : Word) (asserted : s.resetLine = true)
    (hs : s.wasReset = true) (aligned : off.toNat % 4 = 0) : windowWrite off 4 w s = .next s := by
  have defined : accessRefusal s off 4 = none := (accessRefusal_eq_none s off 4).2 ⟨hs, rfl, aligned⟩
  simp only [windowWrite, defined, asserted, if_true]

theorem windowRead_asserted {s : State} {off : Offset} (asserted : s.resetLine = true) (hs : s.wasReset = true)
    (aligned : off.toNat % 4 = 0) : windowRead off 4 s = .ok 0 := by
  have defined : accessRefusal s off 4 = none := (accessRefusal_eq_none s off 4).2 ⟨hs, rfl, aligned⟩
  simp only [windowRead, defined, asserted, if_true, readReg_resetBlock]

/-- Settles O24: a clock edge with reset asserted is a reset event; in between, a write is lost and a read sees the registers
as reset leaves them. -/
theorem resetClearsTheBlock : Obligations.ResetClearsTheBlock := fun _ asserted =>
  ⟨clockTick_asserted asserted, fun _ w hs aligned =>
    ⟨windowWrite_asserted w asserted hs aligned, windowRead_asserted asserted hs aligned⟩⟩

end Sys2Proof.Machine
end

section
/-! The rounding function as the nearest Normal (derived from 40_fp_arith.md R94, R96): rounding to nearest even gives a nearest
integer, and the Normal values are, in units of the last place, integers or values below the significand's range. -/

namespace Sys2Proof.Machine

open Sys2Proof.Claims

/-! ## The nearest integer -/

/-- Rounding to nearest even and Mathlib's `round` differ in ties alone, where both neighbours are as near. -/
theorem abs_sub_nearestEven (t : ℚ) : |t - nearestEven t| = |t - round t| := by
  have fract_nonneg := Int.fract_nonneg t
  have fract_lt := Int.fract_lt_one t
  have split := Int.self_sub_floor t
  rw [abs_sub_round_eq_min, nearestEven]
  split
  next up =>
    have half : 1 / 2 ≤ Int.fract t := up.elim le_of_lt fun tie => tie.1.ge
    rw [Int.cast_add, Int.cast_one, ← sub_sub, split, abs_of_neg (by linarith), min_eq_right (by linarith), neg_sub]
  next down =>
    have half : Int.fract t ≤ 1 / 2 := le_of_not_gt fun above => down (.inl above)
    rw [split, abs_of_nonneg fract_nonneg, min_eq_left (by linarith)]

/-- No multiple of u is nearer to v than the one `nearestEven` picks. -/
theorem nearestEven_mul_nearest {u : ℚ} (hu : 0 < u) (v : ℚ) (z : ℤ) :
    |nearestEven (v / u) * u - v| ≤ |z * u - v| := by
  have scaled (m : ℤ) : |m * u - v| = |v / u - m| * u := by
    rw [abs_sub_comm, ← abs_of_pos hu, ← abs_mul, abs_of_pos hu, sub_mul, div_mul_cancel₀ v hu.ne']
  rw [scaled, scaled, abs_sub_nearestEven]
  exact mul_le_mul_of_nonneg_right (round_le _ z) hu.le

theorem le_nearestEven {t : ℚ} {b : ℤ} (h : b ≤ t) : b ≤ nearestEven t := by
  have := Int.le_floor.2 h
  unfold nearestEven
  split <;> omega

theorem nearestEven_intCast (b : ℤ) : nearestEven b = b := by
  rw [nearestEven, Int.fract_intCast, Int.floor_intCast, if_neg (by norm_num)]

theorem nearestEven_le {t : ℚ} {b : ℤ} (h : t ≤ b) : nearestEven t ≤ b := by
  obtain below | rfl := h.lt_or_eq
  · exact nearestEven_le_of_lt below
  · exact (nearestEven_intCast b).le

/-! ## The Normal values -/

/-- A significand m in range and an exponent e in range pack to the Normal of the value `m * 2^(e - 112)` (R94). -/
theorem quad_normal (s : Nat) {m e : ℤ} (ge : 2 ^ 112 ≤ m) (lt : m < 2 ^ 113) (lower : -16382 ≤ e) (upper : e ≤ 16383) :
    ClassNormal (quad s (e + 16383).toNat (m - 2 ^ 112).toNat) ∧
      val (quad s (e + 16383).toNat (m - 2 ^ 112).toNat) = m * 2 ^ (e - 112) := by
  have normal := classNormal_quad s (e := (e + 16383).toNat) (f := (m - 2 ^ 112).toNat) (by omega) (by omega) (by omega)
  have significand : ((2 ^ 112 + (m - 2 ^ 112).toNat : Nat) : ℤ) = m := by omega
  have exponent : ((e + 16383).toNat : ℤ) - 16383 - 112 = e - 112 := by omega
  refine ⟨normal, ?_⟩
  rw [val, if_pos normal, expoOf_quad s (by omega) (by omega), fracOf_quad s _ (by omega), exponent, ← Int.cast_natCast,
    significand]

/-- Where neither the exponent nor the carry leaves the range, R96 packs the value it rounds to. -/
theorem packRounded_normal (s : Nat) {m e : ℤ} (ge : 2 ^ 112 ≤ m) (le : m ≤ 2 ^ 113) (lower : -16382 ≤ e)
    (upper : e < 16383 ∨ e = 16383 ∧ m < 2 ^ 113) :
    ClassNormal (packRounded s m e) ∧ val (packRounded s m e) = m * 2 ^ (e - 112) := by
  unfold packRounded
  obtain below | carry := le.lt_or_eq
  · simp only [if_neg below.ne]
    rw [if_neg (by omega), if_neg (by omega)]
    exact quad_normal s ge below lower (by omega)
  · obtain ⟨normal, value⟩ := quad_normal s (m := 2 ^ 112) (e := e + 1) le_rfl (by decide) (by omega) (by omega)
    have carried : ((2 ^ 112 : ℤ) : ℚ) * 2 ^ (e + 1 - 112) = m * 2 ^ (e - 112) := by
      rw [add_sub_right_comm, zpow_add_one₀ two_ne_zero, carry]
      push_cast
      ring
    simp only [if_pos carry]
    rw [if_neg (by omega), if_neg (by omega)]
    exact ⟨normal, value.trans carried⟩

theorem two_zpow_eq_significand (e : ℤ) : (2 : ℚ) ^ e = ((2 ^ 112 : ℤ) : ℚ) * 2 ^ (e - 112) := by
  rw [Int.cast_pow, Int.cast_ofNat, ← zpow_natCast, ← zpow_add₀ two_ne_zero]
  congr 1
  omega

/-- At the exponent e, a Normal value is an integer in units of the last place, or lies below. -/
theorem val_multiple_or_le {q : Quad} (h : ClassNormal q) (e : ℤ) :
    (∃ z : ℤ, val q = z * 2 ^ (e - 112)) ∨ val q ≤ 2 ^ e := by
  have frac_lt : fracOf q < 2 ^ 112 := Nat.mod_lt _ (by decide)
  rw [val, if_pos h]
  by_cases above : e ≤ expoOf q - 16383
  · obtain ⟨k, hk⟩ := Int.le.dest above
    refine .inl ⟨((2 ^ 112 + fracOf q) * 2 ^ k : Nat), ?_⟩
    rw [← hk, add_sub_right_comm, zpow_add₀ two_ne_zero, zpow_natCast]
    push_cast
    ring
  · right
    calc ((2 ^ 112 + fracOf q : Nat) : ℚ) * 2 ^ ((expoOf q : ℤ) - 16383 - 112)
        ≤ (2 ^ 113 : Nat) * 2 ^ ((expoOf q : ℤ) - 16383 - 112) := by gcongr; omega
      _ = 2 ^ ((expoOf q : ℤ) - 16383 + 1) := by
        rw [Nat.cast_pow, Nat.cast_two, ← zpow_natCast, ← zpow_add₀ two_ne_zero]
        congr 1
        omega
      _ ≤ 2 ^ e := zpow_le_zpow_right₀ one_le_two (by omega)

/-- No Normal value is nearer to v than its significand rounded at its own exponent. -/
theorem nearestEven_nearest_normal {v : ℚ} {e : ℤ} (lower : 2 ^ e ≤ v) {q : Quad} (h : ClassNormal q) :
    |nearestEven (v / 2 ^ (e - 112)) * 2 ^ (e - 112) - v| ≤ |val q - v| := by
  have nearest := nearestEven_mul_nearest (two_zpow_pos (e - 112)) v
  obtain ⟨z, hz⟩ | below := val_multiple_or_le h e
  · exact hz ▸ nearest z
  · calc |nearestEven (v / 2 ^ (e - 112)) * 2 ^ (e - 112) - v|
        ≤ |(2 : ℚ) ^ e - v| := two_zpow_eq_significand e ▸ nearest (2 ^ 112)
      _ = v - 2 ^ e := by rw [abs_sub_comm, abs_of_nonneg (sub_nonneg.2 lower)]
      _ ≤ v - val q := sub_le_sub_left below v
      _ ≤ |val q - v| := abs_sub_comm (val q) v ▸ le_abs_self _

/-- The largest Normal value, in units of its last place. -/
theorem largest_normal_eq :
    (2 - (2 : ℚ) ^ (-112 : ℤ)) * 2 ^ (16383 : ℤ) = ((2 ^ 113 - 1 : ℤ) : ℚ) * 2 ^ ((16383 : ℤ) - 112) := by
  have unit : (2 - (2 : ℚ) ^ (-112 : ℤ)) * (2 ^ 112 : ℤ) = (2 ^ 113 - 1 : ℤ) := by norm_num
  rw [two_zpow_eq_significand 16383, ← mul_assoc, unit]

/-- R96 in the range of the Normal values: the exponent is a Normal's, and neither it nor the carry overflows. -/
theorem rounded_in_range {v : ℚ} {e : ℤ} (lower : 2 ^ e ≤ v) (upper : v < 2 ^ (e + 1)) (smallest : 2 ^ (-16382 : ℤ) ≤ v)
    (largest : v ≤ (2 - (2 : ℚ) ^ (-112 : ℤ)) * 2 ^ (16383 : ℤ)) :
    -16382 ≤ e ∧ (e < 16383 ∨ e = 16383 ∧ nearestEven (v / 2 ^ (e - 112)) < 2 ^ 113) := by
  have expo_ge : -16382 < e + 1 := (zpow_lt_zpow_iff_right₀ one_lt_two).1 (smallest.trans_lt upper)
  rw [largest_normal_eq] at largest
  have expo_lt : e < 16384 := by
    refine (zpow_lt_zpow_iff_right₀ one_lt_two).1 (lower.trans_lt (largest.trans_lt ?_))
    rw [two_zpow_eq_significand 16384, show (16384 : ℤ) - 112 = 16383 - 112 + 1 by norm_num, zpow_add_one₀ two_ne_zero,
      mul_comm _ (2 : ℚ), ← mul_assoc]
    exact mul_lt_mul_of_pos_right (by norm_num) (two_zpow_pos _)
  refine ⟨by omega, (Int.lt_or_eq_of_le (Int.lt_add_one_iff.1 expo_lt)).imp_right fun top => ⟨top, ?_⟩⟩
  subst top
  exact Int.lt_of_le_sub_one (nearestEven_le ((div_le_iff₀ (two_zpow_pos _)).2 largest))

/-- Settles O36: in range the significand R96 rounds to is packed as it is, and no Normal value is nearer than it. -/
theorem roundingGivesTheNearestNormal : Obligations.RoundingGivesTheNearestNormal := by
  intro n d k hn hd v smallest largest
  obtain ⟨e, lower, upper, hr⟩ := (rounds_iff_packRounded _ _ _).1 (roundpack_rounds false k hn hd)
  obtain ⟨expo_ge, expo_le⟩ := rounded_in_range lower upper smallest largest
  have significand_ge : ((2 ^ 112 : ℤ) : ℚ) ≤ v / 2 ^ (e - 112) :=
    (le_div_iff₀ (two_zpow_pos _)).2 (two_zpow_eq_significand e ▸ lower)
  obtain ⟨normal, value⟩ := packRounded_normal false.toNat (le_nearestEven significand_ge)
    (nearestEven_le_of_lt (scaled_lt upper)) expo_ge expo_le
  rw [hr]
  refine ⟨normal, fun q hq => ?_⟩
  rw [value]
  exact nearestEven_nearest_normal lower hq

end Sys2Proof.Machine
end

section
/-! Commutation of the binary128 addition and multiplication (95_test_vectors.md section 1.9): each branch of R104 to R106, R108
and R109 is symmetric in its operands. -/

namespace Sys2Proof.Machine

open Sys2Proof.Claims

/-- A pattern is its three fields, packed (00_scope.md R14). -/
theorem pack_fields (q : Quad) : pack (sign q) (expo q) (frac q) = q := by
  rw [pack_eq_quad, ← signOf_eq, ← expoOf_eq, ← fracOf_eq]
  refine BitVec.eq_of_toNat_eq ?_
  simp only [quad, signOf, expoOf, fracOf, BitVec.toNat_ofNat]
  omega

/-- There is one Infinity of each sign (R91). -/
theorem eq_of_isInf {a b : Quad} (ha : isInf a = true) (hb : isInf b = true) (hs : sign a = sign b) : a = b := by
  simp only [isInf, Bool.and_eq_true, beq_iff_eq] at ha hb
  rw [← pack_fields a, ← pack_fields b, ha.1, ha.2, hb.1, hb.2, hs]

theorem zerosum_comm (p : Params) (a b : Quad) : zerosum p a b = zerosum p b a := by
  rw [zerosum, zerosum, Bool.and_comm]

/-- The conditions and the exact sum are symmetric; the branch that returns an operand returns one of two equal ones. -/
theorem fadd_comm (p : Params) (nan a b : Quad) : fadd p nan a b = fadd p nan b a := by
  simp only [fadd, Bool.or_comm (isNaN b), Bool.and_comm (isInf b), min_comm (expo b).toNat, add_comm (svalUnits b _),
    zerosum_comm p b, eq_comm (a := sign b)]
  split_ifs with hNaN bothInf sameSign aInf bInf bInf exactZero
  · rfl
  · rw [Bool.and_eq_true] at bothInf
    exact eq_of_isInf bothInf.1 bothInf.2 sameSign
  · rfl
  · exact absurd (Bool.and_eq_true_iff.2 ⟨aInf, bInf⟩) bothInf
  · rfl
  · rfl
  · rfl
  · rfl

theorem fmul_comm (nan a b : Quad) : fmul nan a b = fmul nan b a := by
  simp only [fmul, Bool.xor_comm (sign b), Bool.or_comm (isNaN b), Bool.or_comm (isInf b), Bool.or_comm (isz b),
    Bool.and_comm (isInf b), Bool.and_comm (isz b), Bool.or_comm (isz a && isInf b), mul_comm (sig b), add_comm (scale b)]

theorem resultOf_faddQ (s : State) (x y : Wide) : resultOf .faddQ s x y =
    some (place (fadd s.params (nanResult s.params s.draw) (x.setWidth 128) (y.setWidth 128))) := rfl

theorem resultOf_fmulQ (s : State) (x y : Wide) : resultOf .fmulQ s x y =
    some (place (fmul (nanResult s.params s.draw) (x.setWidth 128) (y.setWidth 128))) := rfl

/-- Settles O43: both orders run `fadd` and `fmul` with the same NaN, that of the draw at the draw counter. -/
theorem additionAndMultiplicationCommute : Obligations.AdditionAndMultiplicationCommute := by
  intro s
  simp only [resultOf_faddQ, resultOf_fmulQ]
  exact ⟨by rw [fadd_comm], by rw [fmul_comm], rfl, rfl⟩

end Sys2Proof.Machine
end

section
/-! The sample words of 30_encoding.md R72, and the placed command of log entry 12. -/

namespace Sys2Proof.Machine

/-- Settles O3: the words are the encodings of their commands, and those decode. -/
theorem sampleCommandWordsDecode : Obligations.SampleCommandWordsDecode :=
  ⟨decode_encode .faddQ, decode_encode .fclassQ, decode_encode .fcvtQU256, decode_encode .fcvtDQ, decode_encode .divU128,
    decode_encode .lowbitU128, decode_encode .divremU256, decode_encode .shlU256⟩

/-- A whole word is its own table word. -/
theorem tableWord_toNat (w : Word) : tableWord 32 w.toNat = w := by
  rw [tableWord, Nat.mod_eq_of_lt w.isLt, BitVec.ofNat_toNat, BitVec.setWidth_eq]

/-- Settles O8: the listed move is the last cycle of the placed command, which decodes. -/
theorem placedCommandRunsInTheNextStep : Obligations.PlacedCommandRunsInTheNextStep := by
  intro s i
  rw [State.withFetchWord, tableWord_toNat, step_listed rfl]
  exact clockTick_due_of_decode rfl rfl le_rfl (decode_encode i)

end Sys2Proof.Machine
end
